-- ==== Sys2Proof/Word.lean ====
section
/-! DEFINITION. The word types of the nX-U8/100 core (spec/00_scope.md R3, R6). -/

namespace Sys2Proof

/-- Eight bits: a general register, a byte of memory, the PSW, DSR (spec/10_state.md R10, R14, R26). -/
abbrev Byte := BitVec 8

/-- Sixteen bits: a word register, PC, SP, EA, an offset inside a segment, an instruction word
(spec/10_state.md R11, R16, R23, R24; spec/30_encoding.md R90). -/
abbrev Word := BitVec 16

/-- Four bits: CSR and its backups, one hexadecimal digit of an instruction word
(spec/10_state.md R17, R19; spec/30_encoding.md R91). -/
abbrev Nibble := BitVec 4

/-- The number of a byte register, 0 to 15; a word, double word or quad word register is named by
the number of its lowest byte register (spec/30_encoding.md R93). -/
abbrev RegNo := BitVec 4

end Sys2Proof
end

