-- ==== Sys2Proof/Syntax.lean ====
section
/-! DEFINITION. The instructions of the nX-U8/100, one constructor for each of the 193 rows of
spec/opcode_table.json, in the table's order (spec/30_encoding.md R100).

A register operand is the number of a byte register; `ERn`, `XRn` and `QRn` operands are named by
the number of their lowest byte register and are well formed only when it is a multiple of 2, 4, 8
(spec/30_encoding.md R93). Immediates, displacements and addresses are the fields as encoded
(spec/30_encoding.md R94 to R96). -/

namespace Sys2Proof

/-- One instruction; the comment beside a constructor is its assembler form and its rule. -/
inductive Instr where
  -- Arithmetic (spec/40_arithmetic.md)
  | addRnRm (n m : RegNo)  -- ADD Rn,Rm, R122
  | addRnImm8 (n : RegNo) (imm : Byte)  -- ADD Rn,#imm8, R123
  | movRnRm (n m : RegNo)  -- MOV Rn,Rm, R124
  | movRnImm8 (n : RegNo) (imm : Byte)  -- MOV Rn,#imm8, R125
  | addcRnRm (n m : RegNo)  -- ADDC Rn,Rm, R126
  | addcRnImm8 (n : RegNo) (imm : Byte)  -- ADDC Rn,#imm8, R127
  | cmpRnRm (n m : RegNo)  -- CMP Rn,Rm, R128
  | cmpRnImm8 (n : RegNo) (imm : Byte)  -- CMP Rn,#imm8, R129
  | cmpcRnRm (n m : RegNo)  -- CMPC Rn,Rm, R130
  | cmpcRnImm8 (n : RegNo) (imm : Byte)  -- CMPC Rn,#imm8, R131
  | andRnRm (n m : RegNo)  -- AND Rn,Rm, R132
  | andRnImm8 (n : RegNo) (imm : Byte)  -- AND Rn,#imm8, R133
  | orRnRm (n m : RegNo)  -- OR Rn,Rm, R134
  | orRnImm8 (n : RegNo) (imm : Byte)  -- OR Rn,#imm8, R135
  | xorRnRm (n m : RegNo)  -- XOR Rn,Rm, R136
  | xorRnImm8 (n : RegNo) (imm : Byte)  -- XOR Rn,#imm8, R137
  | subRnRm (n m : RegNo)  -- SUB Rn,Rm, R138
  | subcRnRm (n m : RegNo)  -- SUBC Rn,Rm, R139
  | movErnErm (n m : RegNo)  -- MOV ERn,ERm, R140
  | movErnImm7 (n : RegNo) (imm : BitVec 7)  -- MOV ERn,#imm7, R141
  | addErnErm (n m : RegNo)  -- ADD ERn,ERm, R142
  | addErnImm7 (n : RegNo) (imm : BitVec 7)  -- ADD ERn,#imm7, R143
  | cmpErnErm (n m : RegNo)  -- CMP ERn,ERm, R144
  -- Shift (spec/41_shift.md)
  | sllRnRm (n m : RegNo)  -- SLL Rn,Rm, R151
  | sllRnWidth (n : RegNo) (width : BitVec 3)  -- SLL Rn,#width, R152
  | sllcRnRm (n m : RegNo)  -- SLLC Rn,Rm, R153
  | sllcRnWidth (n : RegNo) (width : BitVec 3)  -- SLLC Rn,#width, R154
  | sraRnRm (n m : RegNo)  -- SRA Rn,Rm, R155
  | sraRnWidth (n : RegNo) (width : BitVec 3)  -- SRA Rn,#width, R156
  | srlRnRm (n m : RegNo)  -- SRL Rn,Rm, R157
  | srlRnWidth (n : RegNo) (width : BitVec 3)  -- SRL Rn,#width, R158
  | srlcRnRm (n m : RegNo)  -- SRLC Rn,Rm, R159
  | srlcRnWidth (n : RegNo) (width : BitVec 3)  -- SRLC Rn,#width, R160
  -- DSR prefix (spec/42_load_store.md)
  | dsrPrefixSeg (imm : Byte)  -- DSR prefix pseg_addr:, R165
  | dsrPrefixRd (d : RegNo)  -- DSR prefix Rd:, R166
  | dsrPrefixDsr  -- DSR prefix DSR:, R167
  -- Load and store (spec/42_load_store.md)
  | lErnEa (n : RegNo)  -- L ERn,[EA], R175
  | lErnEaInc (n : RegNo)  -- L ERn,[EA+], R176
  | lErnErm (n m : RegNo)  -- L ERn,[ERm], R177
  | lErnDisp16Erm (n m : RegNo) (disp : Word)  -- L ERn,Disp16[ERm], R178
  | lErnDisp6Bp (n : RegNo) (disp : BitVec 6)  -- L ERn,Disp6[BP], R179
  | lErnDisp6Fp (n : RegNo) (disp : BitVec 6)  -- L ERn,Disp6[FP], R180
  | lErnDadr (n : RegNo) (dadr : Word)  -- L ERn,Dadr, R181
  | lRnEa (n : RegNo)  -- L Rn,[EA], R182
  | lRnEaInc (n : RegNo)  -- L Rn,[EA+], R183
  | lRnErm (n m : RegNo)  -- L Rn,[ERm], R184
  | lRnDisp16Erm (n m : RegNo) (disp : Word)  -- L Rn,Disp16[ERm], R185
  | lRnDisp6Bp (n : RegNo) (disp : BitVec 6)  -- L Rn,Disp6[BP], R186
  | lRnDisp6Fp (n : RegNo) (disp : BitVec 6)  -- L Rn,Disp6[FP], R187
  | lRnDadr (n : RegNo) (dadr : Word)  -- L Rn,Dadr, R188
  | lXrnEa (n : RegNo)  -- L XRn,[EA], R189
  | lXrnEaInc (n : RegNo)  -- L XRn,[EA+], R190
  | lQrnEa (n : RegNo)  -- L QRn,[EA], R191
  | lQrnEaInc (n : RegNo)  -- L QRn,[EA+], R192
  | stErnEa (n : RegNo)  -- ST ERn,[EA], R193
  | stErnEaInc (n : RegNo)  -- ST ERn,[EA+], R194
  | stErnErm (n m : RegNo)  -- ST ERn,[ERm], R195
  | stErnDisp16Erm (n m : RegNo) (disp : Word)  -- ST ERn,Disp16[ERm], R196
  | stErnDisp6Bp (n : RegNo) (disp : BitVec 6)  -- ST ERn,Disp6[BP], R197
  | stErnDisp6Fp (n : RegNo) (disp : BitVec 6)  -- ST ERn,Disp6[FP], R198
  | stErnDadr (n : RegNo) (dadr : Word)  -- ST ERn,Dadr, R199
  | stRnEa (n : RegNo)  -- ST Rn,[EA], R200
  | stRnEaInc (n : RegNo)  -- ST Rn,[EA+], R201
  | stRnErm (n m : RegNo)  -- ST Rn,[ERm], R202
  | stRnDisp16Erm (n m : RegNo) (disp : Word)  -- ST Rn,Disp16[ERm], R203
  | stRnDisp6Bp (n : RegNo) (disp : BitVec 6)  -- ST Rn,Disp6[BP], R204
  | stRnDisp6Fp (n : RegNo) (disp : BitVec 6)  -- ST Rn,Disp6[FP], R205
  | stRnDadr (n : RegNo) (dadr : Word)  -- ST Rn,Dadr, R206
  | stXrnEa (n : RegNo)  -- ST XRn,[EA], R207
  | stXrnEaInc (n : RegNo)  -- ST XRn,[EA+], R208
  | stQrnEa (n : RegNo)  -- ST QRn,[EA], R209
  | stQrnEaInc (n : RegNo)  -- ST QRn,[EA+], R210
  -- Control registers (spec/43_control_register.md)
  | addSpSigned8 (imm : Byte)  -- ADD SP,#signed8, R221
  | movEcsrRm (m : RegNo)  -- MOV ECSR,Rm, R222
  | movElrErm (m : RegNo)  -- MOV ELR,ERm, R223
  | movEpswRm (m : RegNo)  -- MOV EPSW,Rm, R224
  | movErnElr (n : RegNo)  -- MOV ERn,ELR, R225
  | movErnSp (n : RegNo)  -- MOV ERn,SP, R226
  | movPswRm (m : RegNo)  -- MOV PSW,Rm, R227
  | movPswUnsigned8 (imm : Byte)  -- MOV PSW,#unsigned8, R228
  | movRnEcsr (n : RegNo)  -- MOV Rn,ECSR, R229
  | movRnEpsw (n : RegNo)  -- MOV Rn,EPSW, R230
  | movRnPsw (n : RegNo)  -- MOV Rn,PSW, R231
  | movSpErm (m : RegNo)  -- MOV SP,ERm, R232
  -- PUSH and POP (spec/44_push_pop.md)
  | pushRn (n : RegNo)  -- PUSH Rn, R242
  | pushErn (n : RegNo)  -- PUSH ERn, R243
  | pushXrn (n : RegNo)  -- PUSH XRn, R244
  | pushQrn (n : RegNo)  -- PUSH QRn, R245
  | pushEa  -- PUSH EA, R246
  | pushElr  -- PUSH ELR, R246
  | pushElrEa  -- PUSH ELR,EA, R246
  | pushEpsw  -- PUSH EPSW, R246
  | pushEpswEa  -- PUSH EPSW,EA, R246
  | pushElrEpsw  -- PUSH ELR,EPSW, R246
  | pushElrEpswEa  -- PUSH ELR,EPSW,EA, R246
  | pushLr  -- PUSH LR, R246
  | pushLrEa  -- PUSH LR,EA, R246
  | pushElrLr  -- PUSH ELR,LR, R246
  | pushElrLrEa  -- PUSH ELR,LR,EA, R246
  | pushEpswLr  -- PUSH EPSW,LR, R246
  | pushEpswLrEa  -- PUSH EPSW,LR,EA, R246
  | pushElrEpswLr  -- PUSH ELR,EPSW,LR, R246
  | pushElrEpswLrEa  -- PUSH ELR,EPSW,LR,EA, R246
  | popEa  -- POP EA, R251
  | popPc  -- POP PC, R251
  | popEaPc  -- POP EA,PC, R251
  | popPsw  -- POP PSW, R251
  | popEaPsw  -- POP EA,PSW, R251
  | popPswPc  -- POP PSW,PC, R251
  | popEaPswPc  -- POP EA,PSW,PC, R251
  | popLr  -- POP LR, R251
  | popEaLr  -- POP EA,LR, R251
  | popLrPc  -- POP LR,PC, R251
  | popEaLrPc  -- POP EA,LR,PC, R251
  | popLrPsw  -- POP LR,PSW, R251
  | popEaLrPsw  -- POP EA,LR,PSW, R251
  | popLrPswPc  -- POP LR,PSW,PC, R251
  | popEaLrPswPc  -- POP EA,LR,PSW,PC, R251
  | popRn (n : RegNo)  -- POP Rn, R252
  | popErn (n : RegNo)  -- POP ERn, R253
  | popXrn (n : RegNo)  -- POP XRn, R254
  | popQrn (n : RegNo)  -- POP QRn, R255
  -- Coprocessor (spec/45_coprocessor.md)
  | movCrnRm (n m : RegNo)  -- MOV CRn,Rm, R261
  | movRnCrm (n m : RegNo)  -- MOV Rn,CRm, R262
  | movCrnEa (n : RegNo)  -- MOV CRn,[EA], R263
  | movCrnEaInc (n : RegNo)  -- MOV CRn,[EA+], R264
  | movCernEa (n : RegNo)  -- MOV CERn,[EA], R265
  | movCernEaInc (n : RegNo)  -- MOV CERn,[EA+], R266
  | movCxrnEa (n : RegNo)  -- MOV CXRn,[EA], R267
  | movCxrnEaInc (n : RegNo)  -- MOV CXRn,[EA+], R268
  | movCqrnEa (n : RegNo)  -- MOV CQRn,[EA], R269
  | movCqrnEaInc (n : RegNo)  -- MOV CQRn,[EA+], R270
  | movEaCrm (m : RegNo)  -- MOV [EA],CRm, R271
  | movEaIncCrm (m : RegNo)  -- MOV [EA+],CRm, R272
  | movEaCerm (m : RegNo)  -- MOV [EA],CERm, R273
  | movEaIncCerm (m : RegNo)  -- MOV [EA+],CERm, R274
  | movEaCxrm (m : RegNo)  -- MOV [EA],CXRm, R275
  | movEaIncCxrm (m : RegNo)  -- MOV [EA+],CXRm, R276
  | movEaCqrm (m : RegNo)  -- MOV [EA],CQRm, R277
  | movEaIncCqrm (m : RegNo)  -- MOV [EA+],CQRm, R278
  -- EA, ALU, bit and PSW access (spec/46_ea_alu_bit_psw.md)
  | leaErm (m : RegNo)  -- LEA [ERm], R290
  | leaDisp16Erm (m : RegNo) (disp : Word)  -- LEA Disp16[ERm], R291
  | leaDadr (dadr : Word)  -- LEA Dadr, R292
  | daaRn (n : RegNo)  -- DAA Rn, R293
  | dasRn (n : RegNo)  -- DAS Rn, R294
  | negRn (n : RegNo)  -- NEG Rn, R295
  | sbRnBit (n : RegNo) (bit : BitVec 3)  -- SB Rn.bit_offset, R296
  | sbDbitadr (bit : BitVec 3) (dadr : Word)  -- SB Dbitadr, R297
  | rbRnBit (n : RegNo) (bit : BitVec 3)  -- RB Rn.bit_offset, R298
  | rbDbitadr (bit : BitVec 3) (dadr : Word)  -- RB Dbitadr, R299
  | tbRnBit (n : RegNo) (bit : BitVec 3)  -- TB Rn.bit_offset, R300
  | tbDbitadr (bit : BitVec 3) (dadr : Word)  -- TB Dbitadr, R301
  | ei  -- EI, R302
  | di  -- DI, R303
  | sc  -- SC, R304
  | rc  -- RC, R305
  | cplc  -- CPLC, R306
  -- Branch, sign extension, software interrupt (spec/47_branch_swi.md)
  | bge (radr : Byte)  -- BGE/BNC Radr, R320
  | blt (radr : Byte)  -- BLT/BCY Radr, R320
  | bgt (radr : Byte)  -- BGT Radr, R320
  | ble (radr : Byte)  -- BLE Radr, R320
  | bges (radr : Byte)  -- BGES Radr, R320
  | blts (radr : Byte)  -- BLTS Radr, R320
  | bgts (radr : Byte)  -- BGTS Radr, R320
  | bles (radr : Byte)  -- BLES Radr, R320
  | bne (radr : Byte)  -- BNE/BNZ Radr, R320
  | beq (radr : Byte)  -- BEQ/BZ Radr, R320
  | bnv (radr : Byte)  -- BNV Radr, R320
  | bov (radr : Byte)  -- BOV Radr, R320
  | bps (radr : Byte)  -- BPS Radr, R320
  | bns (radr : Byte)  -- BNS Radr, R320
  | bal (radr : Byte)  -- BAL Radr, R320
  | extbwEr0  -- EXTBW ER0, R322
  | extbwEr2  -- EXTBW ER2, R322
  | extbwEr4  -- EXTBW ER4, R322
  | extbwEr6  -- EXTBW ER6, R322
  | extbwEr8  -- EXTBW ER8, R322
  | extbwEr10  -- EXTBW ER10, R322
  | extbwEr12  -- EXTBW ER12, R322
  | extbwEr14  -- EXTBW ER14, R322
  | swi (snum : BitVec 6)  -- SWI #snum, R323
  | brk  -- BRK, R324
  | bCadr (g : Nibble) (cadr : Word)  -- B Cadr, R325
  | bErn (n : RegNo)  -- B ERn, R326
  | blCadr (g : Nibble) (cadr : Word)  -- BL Cadr, R327
  | blErn (n : RegNo)  -- BL ERn, R328
  -- Multiplication, division, miscellaneous (spec/48_muldiv_misc.md)
  | mulErnRm (n m : RegNo)  -- MUL ERn,Rm, R350
  | divErnRm (n m : RegNo)  -- DIV ERn,Rm, R351
  | incEa  -- INC [EA], R352
  | decEa  -- DEC [EA], R353
  | rt  -- RT, R354
  | rti  -- RTI, R355
  | nop  -- NOP, R356
  deriving DecidableEq, Repr

/-- The number of 16-bit words of an instruction (spec/30_encoding.md R90): two for the `Disp16[ERm]`,
`Dadr`, `Dbitadr` and `Cadr` forms, one for every other. -/
def Instr.words : Instr → Nat
  | .addRnRm _ _ => 1
  | .addRnImm8 _ _ => 1
  | .movRnRm _ _ => 1
  | .movRnImm8 _ _ => 1
  | .addcRnRm _ _ => 1
  | .addcRnImm8 _ _ => 1
  | .cmpRnRm _ _ => 1
  | .cmpRnImm8 _ _ => 1
  | .cmpcRnRm _ _ => 1
  | .cmpcRnImm8 _ _ => 1
  | .andRnRm _ _ => 1
  | .andRnImm8 _ _ => 1
  | .orRnRm _ _ => 1
  | .orRnImm8 _ _ => 1
  | .xorRnRm _ _ => 1
  | .xorRnImm8 _ _ => 1
  | .subRnRm _ _ => 1
  | .subcRnRm _ _ => 1
  | .movErnErm _ _ => 1
  | .movErnImm7 _ _ => 1
  | .addErnErm _ _ => 1
  | .addErnImm7 _ _ => 1
  | .cmpErnErm _ _ => 1
  | .sllRnRm _ _ => 1
  | .sllRnWidth _ _ => 1
  | .sllcRnRm _ _ => 1
  | .sllcRnWidth _ _ => 1
  | .sraRnRm _ _ => 1
  | .sraRnWidth _ _ => 1
  | .srlRnRm _ _ => 1
  | .srlRnWidth _ _ => 1
  | .srlcRnRm _ _ => 1
  | .srlcRnWidth _ _ => 1
  | .dsrPrefixSeg _ => 1
  | .dsrPrefixRd _ => 1
  | .dsrPrefixDsr => 1
  | .lErnEa _ => 1
  | .lErnEaInc _ => 1
  | .lErnErm _ _ => 1
  | .lErnDisp16Erm _ _ _ => 2
  | .lErnDisp6Bp _ _ => 1
  | .lErnDisp6Fp _ _ => 1
  | .lErnDadr _ _ => 2
  | .lRnEa _ => 1
  | .lRnEaInc _ => 1
  | .lRnErm _ _ => 1
  | .lRnDisp16Erm _ _ _ => 2
  | .lRnDisp6Bp _ _ => 1
  | .lRnDisp6Fp _ _ => 1
  | .lRnDadr _ _ => 2
  | .lXrnEa _ => 1
  | .lXrnEaInc _ => 1
  | .lQrnEa _ => 1
  | .lQrnEaInc _ => 1
  | .stErnEa _ => 1
  | .stErnEaInc _ => 1
  | .stErnErm _ _ => 1
  | .stErnDisp16Erm _ _ _ => 2
  | .stErnDisp6Bp _ _ => 1
  | .stErnDisp6Fp _ _ => 1
  | .stErnDadr _ _ => 2
  | .stRnEa _ => 1
  | .stRnEaInc _ => 1
  | .stRnErm _ _ => 1
  | .stRnDisp16Erm _ _ _ => 2
  | .stRnDisp6Bp _ _ => 1
  | .stRnDisp6Fp _ _ => 1
  | .stRnDadr _ _ => 2
  | .stXrnEa _ => 1
  | .stXrnEaInc _ => 1
  | .stQrnEa _ => 1
  | .stQrnEaInc _ => 1
  | .addSpSigned8 _ => 1
  | .movEcsrRm _ => 1
  | .movElrErm _ => 1
  | .movEpswRm _ => 1
  | .movErnElr _ => 1
  | .movErnSp _ => 1
  | .movPswRm _ => 1
  | .movPswUnsigned8 _ => 1
  | .movRnEcsr _ => 1
  | .movRnEpsw _ => 1
  | .movRnPsw _ => 1
  | .movSpErm _ => 1
  | .pushRn _ => 1
  | .pushErn _ => 1
  | .pushXrn _ => 1
  | .pushQrn _ => 1
  | .pushEa => 1
  | .pushElr => 1
  | .pushElrEa => 1
  | .pushEpsw => 1
  | .pushEpswEa => 1
  | .pushElrEpsw => 1
  | .pushElrEpswEa => 1
  | .pushLr => 1
  | .pushLrEa => 1
  | .pushElrLr => 1
  | .pushElrLrEa => 1
  | .pushEpswLr => 1
  | .pushEpswLrEa => 1
  | .pushElrEpswLr => 1
  | .pushElrEpswLrEa => 1
  | .popEa => 1
  | .popPc => 1
  | .popEaPc => 1
  | .popPsw => 1
  | .popEaPsw => 1
  | .popPswPc => 1
  | .popEaPswPc => 1
  | .popLr => 1
  | .popEaLr => 1
  | .popLrPc => 1
  | .popEaLrPc => 1
  | .popLrPsw => 1
  | .popEaLrPsw => 1
  | .popLrPswPc => 1
  | .popEaLrPswPc => 1
  | .popRn _ => 1
  | .popErn _ => 1
  | .popXrn _ => 1
  | .popQrn _ => 1
  | .movCrnRm _ _ => 1
  | .movRnCrm _ _ => 1
  | .movCrnEa _ => 1
  | .movCrnEaInc _ => 1
  | .movCernEa _ => 1
  | .movCernEaInc _ => 1
  | .movCxrnEa _ => 1
  | .movCxrnEaInc _ => 1
  | .movCqrnEa _ => 1
  | .movCqrnEaInc _ => 1
  | .movEaCrm _ => 1
  | .movEaIncCrm _ => 1
  | .movEaCerm _ => 1
  | .movEaIncCerm _ => 1
  | .movEaCxrm _ => 1
  | .movEaIncCxrm _ => 1
  | .movEaCqrm _ => 1
  | .movEaIncCqrm _ => 1
  | .leaErm _ => 1
  | .leaDisp16Erm _ _ => 2
  | .leaDadr _ => 2
  | .daaRn _ => 1
  | .dasRn _ => 1
  | .negRn _ => 1
  | .sbRnBit _ _ => 1
  | .sbDbitadr _ _ => 2
  | .rbRnBit _ _ => 1
  | .rbDbitadr _ _ => 2
  | .tbRnBit _ _ => 1
  | .tbDbitadr _ _ => 2
  | .ei => 1
  | .di => 1
  | .sc => 1
  | .rc => 1
  | .cplc => 1
  | .bge _ => 1
  | .blt _ => 1
  | .bgt _ => 1
  | .ble _ => 1
  | .bges _ => 1
  | .blts _ => 1
  | .bgts _ => 1
  | .bles _ => 1
  | .bne _ => 1
  | .beq _ => 1
  | .bnv _ => 1
  | .bov _ => 1
  | .bps _ => 1
  | .bns _ => 1
  | .bal _ => 1
  | .extbwEr0 => 1
  | .extbwEr2 => 1
  | .extbwEr4 => 1
  | .extbwEr6 => 1
  | .extbwEr8 => 1
  | .extbwEr10 => 1
  | .extbwEr12 => 1
  | .extbwEr14 => 1
  | .swi _ => 1
  | .brk => 1
  | .bCadr _ _ => 2
  | .bErn _ => 1
  | .blCadr _ _ => 2
  | .blErn _ => 1
  | .mulErnRm _ _ => 1
  | .divErnRm _ _ => 1
  | .incEa => 1
  | .decEa => 1
  | .rt => 1
  | .rti => 1
  | .nop => 1

end Sys2Proof
end

