-- ==== Sys2Proof/WellFormed.lean ====
section
/-! DEFINITION. Well-formed instructions: the register numbers an encoding can hold
(spec/30_encoding.md R93). Every other field is well formed at every value. -/

namespace Sys2Proof

/-- `n` names a word register ER0, ER2, ..., ER14: bit 0 of the field is fixed at 0. -/
def isWordReg (n : RegNo) : Bool := !n.getLsbD 0

/-- `n` names a double word register XR0, XR4, XR8, XR12: bits 1 and 0 are fixed at 0. -/
def isDoubleReg (n : RegNo) : Bool := !n.getLsbD 0 && !n.getLsbD 1

/-- `n` names a quad word register QR0, QR8: bits 2, 1 and 0 are fixed at 0. -/
def isQuadReg (n : RegNo) : Bool := !n.getLsbD 0 && !n.getLsbD 1 && !n.getLsbD 2

/-- Every register operand has a number its encoding can hold. -/
def Instr.wf : Instr → Bool
  | .addRnRm _ _ => true
  | .addRnImm8 _ _ => true
  | .movRnRm _ _ => true
  | .movRnImm8 _ _ => true
  | .addcRnRm _ _ => true
  | .addcRnImm8 _ _ => true
  | .cmpRnRm _ _ => true
  | .cmpRnImm8 _ _ => true
  | .cmpcRnRm _ _ => true
  | .cmpcRnImm8 _ _ => true
  | .andRnRm _ _ => true
  | .andRnImm8 _ _ => true
  | .orRnRm _ _ => true
  | .orRnImm8 _ _ => true
  | .xorRnRm _ _ => true
  | .xorRnImm8 _ _ => true
  | .subRnRm _ _ => true
  | .subcRnRm _ _ => true
  | .movErnErm n m => isWordReg n && isWordReg m
  | .movErnImm7 n _ => isWordReg n
  | .addErnErm n m => isWordReg n && isWordReg m
  | .addErnImm7 n _ => isWordReg n
  | .cmpErnErm n m => isWordReg n && isWordReg m
  | .sllRnRm _ _ => true
  | .sllRnWidth _ _ => true
  | .sllcRnRm _ _ => true
  | .sllcRnWidth _ _ => true
  | .sraRnRm _ _ => true
  | .sraRnWidth _ _ => true
  | .srlRnRm _ _ => true
  | .srlRnWidth _ _ => true
  | .srlcRnRm _ _ => true
  | .srlcRnWidth _ _ => true
  | .dsrPrefixSeg _ => true
  | .dsrPrefixRd _ => true
  | .dsrPrefixDsr => true
  | .lErnEa n => isWordReg n
  | .lErnEaInc n => isWordReg n
  | .lErnErm n m => isWordReg n && isWordReg m
  | .lErnDisp16Erm n m _ => isWordReg n && isWordReg m
  | .lErnDisp6Bp n _ => isWordReg n
  | .lErnDisp6Fp n _ => isWordReg n
  | .lErnDadr n _ => isWordReg n
  | .lRnEa _ => true
  | .lRnEaInc _ => true
  | .lRnErm _ m => isWordReg m
  | .lRnDisp16Erm _ m _ => isWordReg m
  | .lRnDisp6Bp _ _ => true
  | .lRnDisp6Fp _ _ => true
  | .lRnDadr _ _ => true
  | .lXrnEa n => isDoubleReg n
  | .lXrnEaInc n => isDoubleReg n
  | .lQrnEa n => isQuadReg n
  | .lQrnEaInc n => isQuadReg n
  | .stErnEa n => isWordReg n
  | .stErnEaInc n => isWordReg n
  | .stErnErm n m => isWordReg n && isWordReg m
  | .stErnDisp16Erm n m _ => isWordReg n && isWordReg m
  | .stErnDisp6Bp n _ => isWordReg n
  | .stErnDisp6Fp n _ => isWordReg n
  | .stErnDadr n _ => isWordReg n
  | .stRnEa _ => true
  | .stRnEaInc _ => true
  | .stRnErm _ m => isWordReg m
  | .stRnDisp16Erm _ m _ => isWordReg m
  | .stRnDisp6Bp _ _ => true
  | .stRnDisp6Fp _ _ => true
  | .stRnDadr _ _ => true
  | .stXrnEa n => isDoubleReg n
  | .stXrnEaInc n => isDoubleReg n
  | .stQrnEa n => isQuadReg n
  | .stQrnEaInc n => isQuadReg n
  | .addSpSigned8 _ => true
  | .movEcsrRm _ => true
  | .movElrErm m => isWordReg m
  | .movEpswRm _ => true
  | .movErnElr n => isWordReg n
  | .movErnSp n => isWordReg n
  | .movPswRm _ => true
  | .movPswUnsigned8 _ => true
  | .movRnEcsr _ => true
  | .movRnEpsw _ => true
  | .movRnPsw _ => true
  | .movSpErm m => isWordReg m
  | .pushRn _ => true
  | .pushErn n => isWordReg n
  | .pushXrn n => isDoubleReg n
  | .pushQrn n => isQuadReg n
  | .pushEa => true
  | .pushElr => true
  | .pushElrEa => true
  | .pushEpsw => true
  | .pushEpswEa => true
  | .pushElrEpsw => true
  | .pushElrEpswEa => true
  | .pushLr => true
  | .pushLrEa => true
  | .pushElrLr => true
  | .pushElrLrEa => true
  | .pushEpswLr => true
  | .pushEpswLrEa => true
  | .pushElrEpswLr => true
  | .pushElrEpswLrEa => true
  | .popEa => true
  | .popPc => true
  | .popEaPc => true
  | .popPsw => true
  | .popEaPsw => true
  | .popPswPc => true
  | .popEaPswPc => true
  | .popLr => true
  | .popEaLr => true
  | .popLrPc => true
  | .popEaLrPc => true
  | .popLrPsw => true
  | .popEaLrPsw => true
  | .popLrPswPc => true
  | .popEaLrPswPc => true
  | .popRn _ => true
  | .popErn n => isWordReg n
  | .popXrn n => isDoubleReg n
  | .popQrn n => isQuadReg n
  | .movCrnRm _ _ => true
  | .movRnCrm _ _ => true
  | .movCrnEa _ => true
  | .movCrnEaInc _ => true
  | .movCernEa n => isWordReg n
  | .movCernEaInc n => isWordReg n
  | .movCxrnEa n => isDoubleReg n
  | .movCxrnEaInc n => isDoubleReg n
  | .movCqrnEa n => isQuadReg n
  | .movCqrnEaInc n => isQuadReg n
  | .movEaCrm _ => true
  | .movEaIncCrm _ => true
  | .movEaCerm m => isWordReg m
  | .movEaIncCerm m => isWordReg m
  | .movEaCxrm m => isDoubleReg m
  | .movEaIncCxrm m => isDoubleReg m
  | .movEaCqrm m => isQuadReg m
  | .movEaIncCqrm m => isQuadReg m
  | .leaErm m => isWordReg m
  | .leaDisp16Erm m _ => isWordReg m
  | .leaDadr _ => true
  | .daaRn _ => true
  | .dasRn _ => true
  | .negRn _ => true
  | .sbRnBit _ _ => true
  | .sbDbitadr _ _ => true
  | .rbRnBit _ _ => true
  | .rbDbitadr _ _ => true
  | .tbRnBit _ _ => true
  | .tbDbitadr _ _ => true
  | .ei => true
  | .di => true
  | .sc => true
  | .rc => true
  | .cplc => true
  | .bge _ => true
  | .blt _ => true
  | .bgt _ => true
  | .ble _ => true
  | .bges _ => true
  | .blts _ => true
  | .bgts _ => true
  | .bles _ => true
  | .bne _ => true
  | .beq _ => true
  | .bnv _ => true
  | .bov _ => true
  | .bps _ => true
  | .bns _ => true
  | .bal _ => true
  | .extbwEr0 => true
  | .extbwEr2 => true
  | .extbwEr4 => true
  | .extbwEr6 => true
  | .extbwEr8 => true
  | .extbwEr10 => true
  | .extbwEr12 => true
  | .extbwEr14 => true
  | .swi _ => true
  | .brk => true
  | .bCadr _ _ => true
  | .bErn n => isWordReg n
  | .blCadr _ _ => true
  | .blErn n => isWordReg n
  | .mulErnRm n _ => isWordReg n
  | .divErnRm n _ => isWordReg n
  | .incEa => true
  | .decEa => true
  | .rt => true
  | .rti => true
  | .nop => true

end Sys2Proof
end

