-- ==== Sys2Proof/Decode.lean ====
section
/-! DEFINITION. The decoder, total on any bytes, rejecting by name (spec/30_encoding.md R90 to R101),
and after it the encoder, written from the same table. -/

namespace Sys2Proof

/-! ## Digits of a word -/

/-- The word whose four hexadecimal digits are `a`, `b`, `c`, `d`, most significant first
(spec/30_encoding.md R91). -/
def packWord (a b c d : Nibble) : Word := a ++ b ++ c ++ d

/-- Bits 15:12. -/
def digitA (w : Word) : Nibble := w.extractLsb' 12 4

/-- Bits 11:8. -/
def digitB (w : Word) : Nibble := w.extractLsb' 8 4

/-- Bits 7:4. -/
def digitC (w : Word) : Nibble := w.extractLsb' 4 4

/-- Bits 3:0. -/
def digitD (w : Word) : Nibble := w.extractLsb' 0 4

/-- Bits 7:4 of a byte. -/
def hiNibble (b : Byte) : Nibble := b.extractLsb' 4 4

/-- Bits 3:0 of a byte. -/
def loNibble (b : Byte) : Nibble := b.extractLsb' 0 4

/-- The low byte of a word. -/
def loByte (w : Word) : Byte := w.extractLsb' 0 8

/-- The high byte of a word. -/
def hiByte (w : Word) : Byte := w.extractLsb' 8 8

/-- The word with high byte `hi` and low byte `lo`. -/
def mkWord (hi lo : Byte) : Word := hi ++ lo

/-! ## The fields that share a digit with a function bit -/

/-- `imm7`, `Disp6`, `width` and `bit` stand in digits `c` and `d` (spec/30_encoding.md R95, R96). -/
def imm8Field (c d : Nibble) : Byte := c ++ d

/-- Bits 6:0. -/
def imm7Field (c d : Nibble) : BitVec 7 := c.extractLsb' 0 3 ++ d

/-- Bits 5:0. -/
def field6 (c d : Nibble) : BitVec 6 := c.extractLsb' 0 2 ++ d

/-- Bits 6:4. -/
def field3 (c : Nibble) : BitVec 3 := c.extractLsb' 0 3

/-- Bits 7:6, the function bits of the `Disp6` and `SWI` formats. -/
def topTwo (c : Nibble) : BitVec 2 := c.extractLsb' 2 2

/-- Bit 7. -/
def topBit (c : Nibble) : Bool := c.getLsbD 3

/-! ## Register fields with fixed zero bits (spec/30_encoding.md R93) -/

/-- `i`, if `n` names a word register. -/
def onWord (n : RegNo) (i : Instr) : Option Instr := if isWordReg n then some i else none

/-- `i`, if `n` names a double word register. -/
def onDouble (n : RegNo) (i : Instr) : Option Instr := if isDoubleReg n then some i else none

/-- `i`, if `n` names a quad word register. -/
def onQuad (n : RegNo) (i : Instr) : Option Instr := if isQuadReg n then some i else none

/-- `i`, if `b` holds. -/
def onlyIf (b : Bool) (i : Instr) : Option Instr := if b then some i else none

/-! ## The opcode map, by digit (spec/30_encoding.md R98) -/

/-- `8 b c F`: DAA, DAS, NEG and EXTBW, whose two register fields must agree
(spec/30_encoding.md R93). -/
def decode8F (b c : Nibble) : Option Instr :=
  match c with
  | 0x1#4 => some (.daaRn b)
  | 0x3#4 => some (.dasRn b)
  | 0x5#4 => some (.negRn b)
  | 0x0#4 => onlyIf (b == 0x1#4) .extbwEr0
  | 0x2#4 => onlyIf (b == 0x3#4) .extbwEr2
  | 0x4#4 => onlyIf (b == 0x5#4) .extbwEr4
  | 0x6#4 => onlyIf (b == 0x7#4) .extbwEr6
  | 0x8#4 => onlyIf (b == 0x9#4) .extbwEr8
  | 0xA#4 => onlyIf (b == 0xB#4) .extbwEr10
  | 0xC#4 => onlyIf (b == 0xD#4) .extbwEr12
  | 0xE#4 => onlyIf (b == 0xF#4) .extbwEr14
  | _ => none

/-- `8 b c d`: byte arithmetic and shifts by a register. -/
def decode8 (b c d : Nibble) : Option Instr :=
  match d with
  | 0x0#4 => some (.movRnRm b c)
  | 0x1#4 => some (.addRnRm b c)
  | 0x2#4 => some (.andRnRm b c)
  | 0x3#4 => some (.orRnRm b c)
  | 0x4#4 => some (.xorRnRm b c)
  | 0x5#4 => some (.cmpcRnRm b c)
  | 0x6#4 => some (.addcRnRm b c)
  | 0x7#4 => some (.cmpRnRm b c)
  | 0x8#4 => some (.subRnRm b c)
  | 0x9#4 => some (.subcRnRm b c)
  | 0xA#4 => some (.sllRnRm b c)
  | 0xB#4 => some (.sllcRnRm b c)
  | 0xC#4 => some (.srlRnRm b c)
  | 0xD#4 => some (.srlcRnRm b c)
  | 0xE#4 => some (.sraRnRm b c)
  | _ => decode8F b c

/-- A byte or word access of group 9: by `[EA]`, `[EA+]`, `Dadr` or `[ERm]`, chosen by digit `c`. -/
def decodeMode (c : Nibble) (ea eaInc dadr erm : Option Instr) : Option Instr :=
  match c with
  | 0x3#4 => ea
  | 0x5#4 => eaInc
  | 0x1#4 => dadr
  | _ => if isWordReg c then erm else none

/-- A double or quad word access of group 9: by `[EA]` or `[EA+]` only. -/
def decodeEaMode (c : Nibble) (ea eaInc : Option Instr) : Option Instr :=
  match c with
  | 0x3#4 => ea
  | 0x5#4 => eaInc
  | _ => none

/-- `9 b c d`: loads and stores, shifts by a constant, the `Rd:` prefix word. -/
def decode9 (b c d : Nibble) (w2 : Word) : Option Instr :=
  match d with
  | 0x0#4 => decodeMode c (some (.lRnEa b)) (some (.lRnEaInc b)) (some (.lRnDadr b w2))
      (some (.lRnErm b c))
  | 0x1#4 => decodeMode c (some (.stRnEa b)) (some (.stRnEaInc b)) (some (.stRnDadr b w2))
      (some (.stRnErm b c))
  | 0x2#4 => decodeMode c (onWord b (.lErnEa b)) (onWord b (.lErnEaInc b))
      (onWord b (.lErnDadr b w2)) (onWord b (.lErnErm b c))
  | 0x3#4 => decodeMode c (onWord b (.stErnEa b)) (onWord b (.stErnEaInc b))
      (onWord b (.stErnDadr b w2)) (onWord b (.stErnErm b c))
  | 0x4#4 => decodeEaMode c (onDouble b (.lXrnEa b)) (onDouble b (.lXrnEaInc b))
  | 0x5#4 => decodeEaMode c (onDouble b (.stXrnEa b)) (onDouble b (.stXrnEaInc b))
  | 0x6#4 => decodeEaMode c (onQuad b (.lQrnEa b)) (onQuad b (.lQrnEaInc b))
  | 0x7#4 => decodeEaMode c (onQuad b (.stQrnEa b)) (onQuad b (.stQrnEaInc b))
  | 0x8#4 => onWord c (.lRnDisp16Erm b c w2)
  | 0x9#4 => onWord c (.stRnDisp16Erm b c w2)
  | 0xA#4 => onlyIf (!topBit c) (.sllRnWidth b (field3 c))
  | 0xB#4 => onlyIf (!topBit c) (.sllcRnWidth b (field3 c))
  | 0xC#4 => onlyIf (!topBit c) (.srlRnWidth b (field3 c))
  | 0xD#4 => onlyIf (!topBit c) (.srlcRnWidth b (field3 c))
  | 0xE#4 => onlyIf (!topBit c) (.sraRnWidth b (field3 c))
  | _ => onlyIf (b == 0x0#4) (.dsrPrefixRd c)

/-- A bit instruction of group A: on a register when bit 7 is clear, on memory when it is set and
digit `b` is 0. -/
def decodeBit (b c : Nibble) (reg mem : Instr) : Option Instr :=
  if topBit c then onlyIf (b == 0x0#4) mem else some reg

/-- `A b c d`: bits, control registers, coprocessor registers, word access with displacement. -/
def decodeA (b c d : Nibble) (w2 : Word) : Option Instr :=
  match d with
  | 0x0#4 => decodeBit b c (.sbRnBit b (field3 c)) (.sbDbitadr (field3 c) w2)
  | 0x1#4 => decodeBit b c (.tbRnBit b (field3 c)) (.tbDbitadr (field3 c) w2)
  | 0x2#4 => decodeBit b c (.rbRnBit b (field3 c)) (.rbDbitadr (field3 c) w2)
  | 0x3#4 => onlyIf (c == 0x0#4) (.movRnPsw b)
  | 0x4#4 => onlyIf (c == 0x0#4) (.movRnEpsw b)
  | 0x5#4 => onlyIf (c == 0x0#4 && isWordReg b) (.movErnElr b)
  | 0x6#4 => some (.movRnCrm b c)
  | 0x7#4 => onlyIf (c == 0x0#4) (.movRnEcsr b)
  | 0x8#4 => onlyIf (isWordReg b && isWordReg c) (.lErnDisp16Erm b c w2)
  | 0x9#4 => onlyIf (isWordReg b && isWordReg c) (.stErnDisp16Erm b c w2)
  | 0xA#4 =>
      if isWordReg b then onlyIf (c == 0x1#4) (.movErnSp b)
      else onlyIf (b == 0x1#4 && isWordReg c) (.movSpErm c)
  | 0xB#4 => onlyIf (b == 0x0#4) (.movPswRm c)
  | 0xC#4 => onlyIf (b == 0x0#4) (.movEpswRm c)
  | 0xD#4 => onlyIf (c == 0x0#4 && isWordReg b) (.movElrErm b)
  | 0xE#4 => some (.movCrnRm b c)
  | _ => onlyIf (b == 0x0#4) (.movEcsrRm c)

/-- `B b c d`: word access at `Disp6[BP]` or `Disp6[FP]`. -/
def decodeB (b c d : Nibble) : Option Instr :=
  match topTwo c with
  | 0b00#2 => onWord b (.lErnDisp6Bp b (field6 c d))
  | 0b01#2 => onWord b (.lErnDisp6Fp b (field6 c d))
  | 0b10#2 => onWord b (.stErnDisp6Bp b (field6 c d))
  | _ => onWord b (.stErnDisp6Fp b (field6 c d))

/-- `C b c d`: the fifteen conditional branches; condition 1111 is not listed. -/
def decodeC (b c d : Nibble) : Option Instr :=
  match b with
  | 0x0#4 => some (.bge (imm8Field c d))
  | 0x1#4 => some (.blt (imm8Field c d))
  | 0x2#4 => some (.bgt (imm8Field c d))
  | 0x3#4 => some (.ble (imm8Field c d))
  | 0x4#4 => some (.bges (imm8Field c d))
  | 0x5#4 => some (.blts (imm8Field c d))
  | 0x6#4 => some (.bgts (imm8Field c d))
  | 0x7#4 => some (.bles (imm8Field c d))
  | 0x8#4 => some (.bne (imm8Field c d))
  | 0x9#4 => some (.beq (imm8Field c d))
  | 0xA#4 => some (.bnv (imm8Field c d))
  | 0xB#4 => some (.bov (imm8Field c d))
  | 0xC#4 => some (.bps (imm8Field c d))
  | 0xD#4 => some (.bns (imm8Field c d))
  | 0xE#4 => some (.bal (imm8Field c d))
  | _ => none

/-- `D b c d`: byte access at `Disp6[BP]` or `Disp6[FP]`. -/
def decodeD (b c d : Nibble) : Option Instr :=
  match topTwo c with
  | 0b00#2 => some (.lRnDisp6Bp b (field6 c d))
  | 0b01#2 => some (.lRnDisp6Fp b (field6 c d))
  | 0b10#2 => some (.stRnDisp6Bp b (field6 c d))
  | _ => some (.stRnDisp6Fp b (field6 c d))

/-- `E b c d`: word immediates when `b` is even; `ADD SP`, the `pseg_addr:` prefix word, SWI,
`MOV PSW`, EI, DI, SC and RC when it is odd. -/
def decodeE (b c d : Nibble) : Option Instr :=
  if isWordReg b then
    if topBit c then some (.addErnImm7 b (imm7Field c d)) else some (.movErnImm7 b (imm7Field c d))
  else
    match b with
    | 0x1#4 => some (.addSpSigned8 (imm8Field c d))
    | 0x3#4 => some (.dsrPrefixSeg (imm8Field c d))
    | 0x5#4 => onlyIf (topTwo c == 0b00#2) (.swi (field6 c d))
    | 0x9#4 => some (.movPswUnsigned8 (imm8Field c d))
    | 0xB#4 =>
        if c == 0xF#4 && d == 0x7#4 then some .di else onlyIf (c == 0x7#4 && d == 0xF#4) .rc
    | 0xD#4 =>
        if c == 0x0#4 && d == 0x8#4 then some .ei else onlyIf (c == 0x8#4 && d == 0x0#4) .sc
    | _ => none

/-- `F b c D`: moves between the coprocessor and memory. -/
def decodeFD (b c : Nibble) : Option Instr :=
  match c with
  | 0x0#4 => some (.movCrnEa b)
  | 0x1#4 => some (.movCrnEaInc b)
  | 0x2#4 => onWord b (.movCernEa b)
  | 0x3#4 => onWord b (.movCernEaInc b)
  | 0x4#4 => onDouble b (.movCxrnEa b)
  | 0x5#4 => onDouble b (.movCxrnEaInc b)
  | 0x6#4 => onQuad b (.movCqrnEa b)
  | 0x7#4 => onQuad b (.movCqrnEaInc b)
  | 0x8#4 => some (.movEaCrm b)
  | 0x9#4 => some (.movEaIncCrm b)
  | 0xA#4 => onWord b (.movEaCerm b)
  | 0xB#4 => onWord b (.movEaIncCerm b)
  | 0xC#4 => onDouble b (.movEaCxrm b)
  | 0xD#4 => onDouble b (.movEaIncCxrm b)
  | 0xE#4 => onQuad b (.movEaCqrm b)
  | _ => onQuad b (.movEaIncCqrm b)

/-- `F b 8 E`: POP of a register list; bits 11 to 8 are LR, PSW, PC, EA (spec/44_push_pop.md R251). -/
def decodePopList (b : Nibble) : Option Instr :=
  match b with
  | 0x1#4 => some .popEa
  | 0x2#4 => some .popPc
  | 0x3#4 => some .popEaPc
  | 0x4#4 => some .popPsw
  | 0x5#4 => some .popEaPsw
  | 0x6#4 => some .popPswPc
  | 0x7#4 => some .popEaPswPc
  | 0x8#4 => some .popLr
  | 0x9#4 => some .popEaLr
  | 0xA#4 => some .popLrPc
  | 0xB#4 => some .popEaLrPc
  | 0xC#4 => some .popLrPsw
  | 0xD#4 => some .popEaLrPsw
  | 0xE#4 => some .popLrPswPc
  | 0xF#4 => some .popEaLrPswPc
  | _ => none

/-- `F b C E`: PUSH of a register list; bits 11 to 8 are LR, EPSW, ELR, EA
(spec/44_push_pop.md R246). -/
def decodePushList (b : Nibble) : Option Instr :=
  match b with
  | 0x1#4 => some .pushEa
  | 0x2#4 => some .pushElr
  | 0x3#4 => some .pushElrEa
  | 0x4#4 => some .pushEpsw
  | 0x5#4 => some .pushEpswEa
  | 0x6#4 => some .pushElrEpsw
  | 0x7#4 => some .pushElrEpswEa
  | 0x8#4 => some .pushLr
  | 0x9#4 => some .pushLrEa
  | 0xA#4 => some .pushElrLr
  | 0xB#4 => some .pushElrLrEa
  | 0xC#4 => some .pushEpswLr
  | 0xD#4 => some .pushEpswLrEa
  | 0xE#4 => some .pushElrEpswLr
  | 0xF#4 => some .pushElrEpswLrEa
  | _ => none

/-- `F b c E`: the stack. -/
def decodeFE (b c : Nibble) : Option Instr :=
  match c with
  | 0x0#4 => some (.popRn b)
  | 0x1#4 => onWord b (.popErn b)
  | 0x2#4 => onDouble b (.popXrn b)
  | 0x3#4 => onQuad b (.popQrn b)
  | 0x4#4 => some (.pushRn b)
  | 0x5#4 => onWord b (.pushErn b)
  | 0x6#4 => onDouble b (.pushXrn b)
  | 0x7#4 => onQuad b (.pushQrn b)
  | 0x8#4 => decodePopList b
  | 0xC#4 => decodePushList b
  | _ => none

/-- `F E c F`. -/
def decodeFEF (c : Nibble) : Option Instr :=
  match c with
  | 0x0#4 => some .rti
  | 0x1#4 => some .rt
  | 0x2#4 => some .incEa
  | 0x3#4 => some .decEa
  | 0x8#4 => some .nop
  | 0x9#4 => some .dsrPrefixDsr
  | 0xC#4 => some .cplc
  | _ => none

/-- `F b c d`. -/
def decodeF (b c d : Nibble) (w2 : Word) : Option Instr :=
  match d with
  | 0x0#4 => onlyIf (c == 0x0#4) (.bCadr b w2)
  | 0x1#4 => onlyIf (c == 0x0#4) (.blCadr b w2)
  | 0x2#4 => onlyIf (b == 0x0#4 && isWordReg c) (.bErn c)
  | 0x3#4 => onlyIf (b == 0x0#4 && isWordReg c) (.blErn c)
  | 0x4#4 => onWord b (.mulErnRm b c)
  | 0x5#4 => onlyIf (isWordReg b && isWordReg c) (.movErnErm b c)
  | 0x6#4 => onlyIf (isWordReg b && isWordReg c) (.addErnErm b c)
  | 0x7#4 => onlyIf (isWordReg b && isWordReg c) (.cmpErnErm b c)
  | 0x9#4 => onWord b (.divErnRm b c)
  | 0xA#4 => onlyIf (b == 0x0#4 && isWordReg c) (.leaErm c)
  | 0xB#4 => onlyIf (b == 0x0#4 && isWordReg c) (.leaDisp16Erm c w2)
  | 0xC#4 => onlyIf (b == 0x0#4 && c == 0x0#4) (.leaDadr w2)
  | 0xD#4 => decodeFD b c
  | 0xE#4 => decodeFE b c
  | 0xF#4 =>
      if b == 0xE#4 then decodeFEF c else onlyIf (b == 0xF#4 && c == 0xF#4) .brk
  | _ => none

/-- The instruction whose first word has the digits `a b c d` and whose second word, if it has one,
is `w2` (spec/30_encoding.md R98); `none` where no row of spec/opcode_table.json matches. -/
def decodeDigits (a b c d : Nibble) (w2 : Word) : Option Instr :=
  match a with
  | 0x0#4 => some (.movRnImm8 b (imm8Field c d))
  | 0x1#4 => some (.addRnImm8 b (imm8Field c d))
  | 0x2#4 => some (.andRnImm8 b (imm8Field c d))
  | 0x3#4 => some (.orRnImm8 b (imm8Field c d))
  | 0x4#4 => some (.xorRnImm8 b (imm8Field c d))
  | 0x5#4 => some (.cmpcRnImm8 b (imm8Field c d))
  | 0x6#4 => some (.addcRnImm8 b (imm8Field c d))
  | 0x7#4 => some (.cmpRnImm8 b (imm8Field c d))
  | 0x8#4 => decode8 b c d
  | 0x9#4 => decode9 b c d w2
  | 0xA#4 => decodeA b c d w2
  | 0xB#4 => decodeB b c d
  | 0xC#4 => decodeC b c d
  | 0xD#4 => decodeD b c d
  | 0xE#4 => decodeE b c d
  | _ => decodeF b c d w2

/-- The instruction of the words `w1` and, if it has a second, `w2`. The first word alone decides
which row it is and so how long it is (spec/30_encoding.md R90). -/
def decodeWords (w1 w2 : Word) : Option Instr :=
  decodeDigits (digitA w1) (digitB w1) (digitC w1) (digitD w1) w2

/-- Whether an instruction starting with `w1` has a second word. -/
def hasSecondWord (w1 : Word) : Bool :=
  match decodeWords w1 0x0000#16 with
  | some i => i.words == 2
  | none => false

/-! ## Bytes -/

/-- Why bytes are not an instruction. -/
inductive DecodeError where
  /-- The bytes end before the instruction does. -/
  | truncated
  /-- The first word matches no row of spec/opcode_table.json (spec/30_encoding.md R99). -/
  | unlisted (w : Word)
  deriving DecidableEq, Repr

/-- The first word in a list of bytes, and the bytes after it: the low byte comes first
(spec/20_memory.md R56). -/
def takeWord : List Byte → Option (Word × List Byte)
  | lo :: hi :: rest => some (mkWord hi lo, rest)
  | _ => none

/-- The instruction at the head of a list of bytes, and the bytes after it. -/
def decode (bs : List Byte) : Except DecodeError (Instr × List Byte) :=
  match takeWord bs with
  | none => .error .truncated
  | some (w1, rest) =>
    match decodeWords w1 0x0000#16 with
    | none => .error (.unlisted w1)
    | some i =>
      if i.words = 1 then .ok (i, rest)
      else
        match takeWord rest with
        | none => .error .truncated
        | some (w2, rest') =>
          match decodeWords w1 w2 with
          | none => .error (.unlisted w1)
          | some j => .ok (j, rest')

/-- The bytes of words as code memory stores them, each low byte first (spec/20_memory.md R56). -/
def wordBytes : List Word → List Byte
  | [] => []
  | w :: ws => loByte w :: hiByte w :: wordBytes ws

/-- The instruction this decoder reads from an instruction whose bits are `w`, bit 0 the least
significant bit of the first word, the second word in bits 31 to 16, bits from `nbits` on zero. -/
def decodeTableWord (nbits w : Nat) : Option Instr :=
  let v : BitVec 32 := BitVec.ofNat 32 (w % 2 ^ nbits)
  match decode (wordBytes [v.extractLsb' 0 16, v.extractLsb' 16 16]) with
  | .ok (i, _) => some i
  | .error _ => none

/-! ## The encoder -/

/-- The words of an instruction, first word first, from the encoding column of
spec/opcode_table.json. -/
def encode : Instr → List Word
  | .addRnRm n m => [packWord 0x8#4 n m 0x1#4]
  | .addRnImm8 n imm => [packWord 0x1#4 n (hiNibble imm) (loNibble imm)]
  | .movRnRm n m => [packWord 0x8#4 n m 0x0#4]
  | .movRnImm8 n imm => [packWord 0x0#4 n (hiNibble imm) (loNibble imm)]
  | .addcRnRm n m => [packWord 0x8#4 n m 0x6#4]
  | .addcRnImm8 n imm => [packWord 0x6#4 n (hiNibble imm) (loNibble imm)]
  | .cmpRnRm n m => [packWord 0x8#4 n m 0x7#4]
  | .cmpRnImm8 n imm => [packWord 0x7#4 n (hiNibble imm) (loNibble imm)]
  | .cmpcRnRm n m => [packWord 0x8#4 n m 0x5#4]
  | .cmpcRnImm8 n imm => [packWord 0x5#4 n (hiNibble imm) (loNibble imm)]
  | .andRnRm n m => [packWord 0x8#4 n m 0x2#4]
  | .andRnImm8 n imm => [packWord 0x2#4 n (hiNibble imm) (loNibble imm)]
  | .orRnRm n m => [packWord 0x8#4 n m 0x3#4]
  | .orRnImm8 n imm => [packWord 0x3#4 n (hiNibble imm) (loNibble imm)]
  | .xorRnRm n m => [packWord 0x8#4 n m 0x4#4]
  | .xorRnImm8 n imm => [packWord 0x4#4 n (hiNibble imm) (loNibble imm)]
  | .subRnRm n m => [packWord 0x8#4 n m 0x8#4]
  | .subcRnRm n m => [packWord 0x8#4 n m 0x9#4]
  | .movErnErm n m => [packWord 0xF#4 n m 0x5#4]
  | .movErnImm7 n imm => [packWord 0xE#4 n (0b0#1 ++ imm.extractLsb' 4 3) (imm.extractLsb' 0 4)]
  | .addErnErm n m => [packWord 0xF#4 n m 0x6#4]
  | .addErnImm7 n imm => [packWord 0xE#4 n (0b1#1 ++ imm.extractLsb' 4 3) (imm.extractLsb' 0 4)]
  | .cmpErnErm n m => [packWord 0xF#4 n m 0x7#4]
  | .sllRnRm n m => [packWord 0x8#4 n m 0xA#4]
  | .sllRnWidth n width => [packWord 0x9#4 n (0b0#1 ++ width) 0xA#4]
  | .sllcRnRm n m => [packWord 0x8#4 n m 0xB#4]
  | .sllcRnWidth n width => [packWord 0x9#4 n (0b0#1 ++ width) 0xB#4]
  | .sraRnRm n m => [packWord 0x8#4 n m 0xE#4]
  | .sraRnWidth n width => [packWord 0x9#4 n (0b0#1 ++ width) 0xE#4]
  | .srlRnRm n m => [packWord 0x8#4 n m 0xC#4]
  | .srlRnWidth n width => [packWord 0x9#4 n (0b0#1 ++ width) 0xC#4]
  | .srlcRnRm n m => [packWord 0x8#4 n m 0xD#4]
  | .srlcRnWidth n width => [packWord 0x9#4 n (0b0#1 ++ width) 0xD#4]
  | .dsrPrefixSeg imm => [packWord 0xE#4 0x3#4 (hiNibble imm) (loNibble imm)]
  | .dsrPrefixRd d => [packWord 0x9#4 0x0#4 d 0xF#4]
  | .dsrPrefixDsr => [packWord 0xF#4 0xE#4 0x9#4 0xF#4]
  | .lErnEa n => [packWord 0x9#4 n 0x3#4 0x2#4]
  | .lErnEaInc n => [packWord 0x9#4 n 0x5#4 0x2#4]
  | .lErnErm n m => [packWord 0x9#4 n m 0x2#4]
  | .lErnDisp16Erm n m disp => [packWord 0xA#4 n m 0x8#4, disp]
  | .lErnDisp6Bp n disp => [packWord 0xB#4 n (0b00#2 ++ disp.extractLsb' 4 2) (disp.extractLsb' 0 4)]
  | .lErnDisp6Fp n disp => [packWord 0xB#4 n (0b01#2 ++ disp.extractLsb' 4 2) (disp.extractLsb' 0 4)]
  | .lErnDadr n dadr => [packWord 0x9#4 n 0x1#4 0x2#4, dadr]
  | .lRnEa n => [packWord 0x9#4 n 0x3#4 0x0#4]
  | .lRnEaInc n => [packWord 0x9#4 n 0x5#4 0x0#4]
  | .lRnErm n m => [packWord 0x9#4 n m 0x0#4]
  | .lRnDisp16Erm n m disp => [packWord 0x9#4 n m 0x8#4, disp]
  | .lRnDisp6Bp n disp => [packWord 0xD#4 n (0b00#2 ++ disp.extractLsb' 4 2) (disp.extractLsb' 0 4)]
  | .lRnDisp6Fp n disp => [packWord 0xD#4 n (0b01#2 ++ disp.extractLsb' 4 2) (disp.extractLsb' 0 4)]
  | .lRnDadr n dadr => [packWord 0x9#4 n 0x1#4 0x0#4, dadr]
  | .lXrnEa n => [packWord 0x9#4 n 0x3#4 0x4#4]
  | .lXrnEaInc n => [packWord 0x9#4 n 0x5#4 0x4#4]
  | .lQrnEa n => [packWord 0x9#4 n 0x3#4 0x6#4]
  | .lQrnEaInc n => [packWord 0x9#4 n 0x5#4 0x6#4]
  | .stErnEa n => [packWord 0x9#4 n 0x3#4 0x3#4]
  | .stErnEaInc n => [packWord 0x9#4 n 0x5#4 0x3#4]
  | .stErnErm n m => [packWord 0x9#4 n m 0x3#4]
  | .stErnDisp16Erm n m disp => [packWord 0xA#4 n m 0x9#4, disp]
  | .stErnDisp6Bp n disp => [packWord 0xB#4 n (0b10#2 ++ disp.extractLsb' 4 2) (disp.extractLsb' 0 4)]
  | .stErnDisp6Fp n disp => [packWord 0xB#4 n (0b11#2 ++ disp.extractLsb' 4 2) (disp.extractLsb' 0 4)]
  | .stErnDadr n dadr => [packWord 0x9#4 n 0x1#4 0x3#4, dadr]
  | .stRnEa n => [packWord 0x9#4 n 0x3#4 0x1#4]
  | .stRnEaInc n => [packWord 0x9#4 n 0x5#4 0x1#4]
  | .stRnErm n m => [packWord 0x9#4 n m 0x1#4]
  | .stRnDisp16Erm n m disp => [packWord 0x9#4 n m 0x9#4, disp]
  | .stRnDisp6Bp n disp => [packWord 0xD#4 n (0b10#2 ++ disp.extractLsb' 4 2) (disp.extractLsb' 0 4)]
  | .stRnDisp6Fp n disp => [packWord 0xD#4 n (0b11#2 ++ disp.extractLsb' 4 2) (disp.extractLsb' 0 4)]
  | .stRnDadr n dadr => [packWord 0x9#4 n 0x1#4 0x1#4, dadr]
  | .stXrnEa n => [packWord 0x9#4 n 0x3#4 0x5#4]
  | .stXrnEaInc n => [packWord 0x9#4 n 0x5#4 0x5#4]
  | .stQrnEa n => [packWord 0x9#4 n 0x3#4 0x7#4]
  | .stQrnEaInc n => [packWord 0x9#4 n 0x5#4 0x7#4]
  | .addSpSigned8 imm => [packWord 0xE#4 0x1#4 (hiNibble imm) (loNibble imm)]
  | .movEcsrRm m => [packWord 0xA#4 0x0#4 m 0xF#4]
  | .movElrErm m => [packWord 0xA#4 m 0x0#4 0xD#4]
  | .movEpswRm m => [packWord 0xA#4 0x0#4 m 0xC#4]
  | .movErnElr n => [packWord 0xA#4 n 0x0#4 0x5#4]
  | .movErnSp n => [packWord 0xA#4 n 0x1#4 0xA#4]
  | .movPswRm m => [packWord 0xA#4 0x0#4 m 0xB#4]
  | .movPswUnsigned8 imm => [packWord 0xE#4 0x9#4 (hiNibble imm) (loNibble imm)]
  | .movRnEcsr n => [packWord 0xA#4 n 0x0#4 0x7#4]
  | .movRnEpsw n => [packWord 0xA#4 n 0x0#4 0x4#4]
  | .movRnPsw n => [packWord 0xA#4 n 0x0#4 0x3#4]
  | .movSpErm m => [packWord 0xA#4 0x1#4 m 0xA#4]
  | .pushRn n => [packWord 0xF#4 n 0x4#4 0xE#4]
  | .pushErn n => [packWord 0xF#4 n 0x5#4 0xE#4]
  | .pushXrn n => [packWord 0xF#4 n 0x6#4 0xE#4]
  | .pushQrn n => [packWord 0xF#4 n 0x7#4 0xE#4]
  | .pushEa => [packWord 0xF#4 0x1#4 0xC#4 0xE#4]
  | .pushElr => [packWord 0xF#4 0x2#4 0xC#4 0xE#4]
  | .pushElrEa => [packWord 0xF#4 0x3#4 0xC#4 0xE#4]
  | .pushEpsw => [packWord 0xF#4 0x4#4 0xC#4 0xE#4]
  | .pushEpswEa => [packWord 0xF#4 0x5#4 0xC#4 0xE#4]
  | .pushElrEpsw => [packWord 0xF#4 0x6#4 0xC#4 0xE#4]
  | .pushElrEpswEa => [packWord 0xF#4 0x7#4 0xC#4 0xE#4]
  | .pushLr => [packWord 0xF#4 0x8#4 0xC#4 0xE#4]
  | .pushLrEa => [packWord 0xF#4 0x9#4 0xC#4 0xE#4]
  | .pushElrLr => [packWord 0xF#4 0xA#4 0xC#4 0xE#4]
  | .pushElrLrEa => [packWord 0xF#4 0xB#4 0xC#4 0xE#4]
  | .pushEpswLr => [packWord 0xF#4 0xC#4 0xC#4 0xE#4]
  | .pushEpswLrEa => [packWord 0xF#4 0xD#4 0xC#4 0xE#4]
  | .pushElrEpswLr => [packWord 0xF#4 0xE#4 0xC#4 0xE#4]
  | .pushElrEpswLrEa => [packWord 0xF#4 0xF#4 0xC#4 0xE#4]
  | .popEa => [packWord 0xF#4 0x1#4 0x8#4 0xE#4]
  | .popPc => [packWord 0xF#4 0x2#4 0x8#4 0xE#4]
  | .popEaPc => [packWord 0xF#4 0x3#4 0x8#4 0xE#4]
  | .popPsw => [packWord 0xF#4 0x4#4 0x8#4 0xE#4]
  | .popEaPsw => [packWord 0xF#4 0x5#4 0x8#4 0xE#4]
  | .popPswPc => [packWord 0xF#4 0x6#4 0x8#4 0xE#4]
  | .popEaPswPc => [packWord 0xF#4 0x7#4 0x8#4 0xE#4]
  | .popLr => [packWord 0xF#4 0x8#4 0x8#4 0xE#4]
  | .popEaLr => [packWord 0xF#4 0x9#4 0x8#4 0xE#4]
  | .popLrPc => [packWord 0xF#4 0xA#4 0x8#4 0xE#4]
  | .popEaLrPc => [packWord 0xF#4 0xB#4 0x8#4 0xE#4]
  | .popLrPsw => [packWord 0xF#4 0xC#4 0x8#4 0xE#4]
  | .popEaLrPsw => [packWord 0xF#4 0xD#4 0x8#4 0xE#4]
  | .popLrPswPc => [packWord 0xF#4 0xE#4 0x8#4 0xE#4]
  | .popEaLrPswPc => [packWord 0xF#4 0xF#4 0x8#4 0xE#4]
  | .popRn n => [packWord 0xF#4 n 0x0#4 0xE#4]
  | .popErn n => [packWord 0xF#4 n 0x1#4 0xE#4]
  | .popXrn n => [packWord 0xF#4 n 0x2#4 0xE#4]
  | .popQrn n => [packWord 0xF#4 n 0x3#4 0xE#4]
  | .movCrnRm n m => [packWord 0xA#4 n m 0xE#4]
  | .movRnCrm n m => [packWord 0xA#4 n m 0x6#4]
  | .movCrnEa n => [packWord 0xF#4 n 0x0#4 0xD#4]
  | .movCrnEaInc n => [packWord 0xF#4 n 0x1#4 0xD#4]
  | .movCernEa n => [packWord 0xF#4 n 0x2#4 0xD#4]
  | .movCernEaInc n => [packWord 0xF#4 n 0x3#4 0xD#4]
  | .movCxrnEa n => [packWord 0xF#4 n 0x4#4 0xD#4]
  | .movCxrnEaInc n => [packWord 0xF#4 n 0x5#4 0xD#4]
  | .movCqrnEa n => [packWord 0xF#4 n 0x6#4 0xD#4]
  | .movCqrnEaInc n => [packWord 0xF#4 n 0x7#4 0xD#4]
  | .movEaCrm m => [packWord 0xF#4 m 0x8#4 0xD#4]
  | .movEaIncCrm m => [packWord 0xF#4 m 0x9#4 0xD#4]
  | .movEaCerm m => [packWord 0xF#4 m 0xA#4 0xD#4]
  | .movEaIncCerm m => [packWord 0xF#4 m 0xB#4 0xD#4]
  | .movEaCxrm m => [packWord 0xF#4 m 0xC#4 0xD#4]
  | .movEaIncCxrm m => [packWord 0xF#4 m 0xD#4 0xD#4]
  | .movEaCqrm m => [packWord 0xF#4 m 0xE#4 0xD#4]
  | .movEaIncCqrm m => [packWord 0xF#4 m 0xF#4 0xD#4]
  | .leaErm m => [packWord 0xF#4 0x0#4 m 0xA#4]
  | .leaDisp16Erm m disp => [packWord 0xF#4 0x0#4 m 0xB#4, disp]
  | .leaDadr dadr => [packWord 0xF#4 0x0#4 0x0#4 0xC#4, dadr]
  | .daaRn n => [packWord 0x8#4 n 0x1#4 0xF#4]
  | .dasRn n => [packWord 0x8#4 n 0x3#4 0xF#4]
  | .negRn n => [packWord 0x8#4 n 0x5#4 0xF#4]
  | .sbRnBit n bit => [packWord 0xA#4 n (0b0#1 ++ bit) 0x0#4]
  | .sbDbitadr bit dadr => [packWord 0xA#4 0x0#4 (0b1#1 ++ bit) 0x0#4, dadr]
  | .rbRnBit n bit => [packWord 0xA#4 n (0b0#1 ++ bit) 0x2#4]
  | .rbDbitadr bit dadr => [packWord 0xA#4 0x0#4 (0b1#1 ++ bit) 0x2#4, dadr]
  | .tbRnBit n bit => [packWord 0xA#4 n (0b0#1 ++ bit) 0x1#4]
  | .tbDbitadr bit dadr => [packWord 0xA#4 0x0#4 (0b1#1 ++ bit) 0x1#4, dadr]
  | .ei => [packWord 0xE#4 0xD#4 0x0#4 0x8#4]
  | .di => [packWord 0xE#4 0xB#4 0xF#4 0x7#4]
  | .sc => [packWord 0xE#4 0xD#4 0x8#4 0x0#4]
  | .rc => [packWord 0xE#4 0xB#4 0x7#4 0xF#4]
  | .cplc => [packWord 0xF#4 0xE#4 0xC#4 0xF#4]
  | .bge radr => [packWord 0xC#4 0x0#4 (hiNibble radr) (loNibble radr)]
  | .blt radr => [packWord 0xC#4 0x1#4 (hiNibble radr) (loNibble radr)]
  | .bgt radr => [packWord 0xC#4 0x2#4 (hiNibble radr) (loNibble radr)]
  | .ble radr => [packWord 0xC#4 0x3#4 (hiNibble radr) (loNibble radr)]
  | .bges radr => [packWord 0xC#4 0x4#4 (hiNibble radr) (loNibble radr)]
  | .blts radr => [packWord 0xC#4 0x5#4 (hiNibble radr) (loNibble radr)]
  | .bgts radr => [packWord 0xC#4 0x6#4 (hiNibble radr) (loNibble radr)]
  | .bles radr => [packWord 0xC#4 0x7#4 (hiNibble radr) (loNibble radr)]
  | .bne radr => [packWord 0xC#4 0x8#4 (hiNibble radr) (loNibble radr)]
  | .beq radr => [packWord 0xC#4 0x9#4 (hiNibble radr) (loNibble radr)]
  | .bnv radr => [packWord 0xC#4 0xA#4 (hiNibble radr) (loNibble radr)]
  | .bov radr => [packWord 0xC#4 0xB#4 (hiNibble radr) (loNibble radr)]
  | .bps radr => [packWord 0xC#4 0xC#4 (hiNibble radr) (loNibble radr)]
  | .bns radr => [packWord 0xC#4 0xD#4 (hiNibble radr) (loNibble radr)]
  | .bal radr => [packWord 0xC#4 0xE#4 (hiNibble radr) (loNibble radr)]
  | .extbwEr0 => [packWord 0x8#4 0x1#4 0x0#4 0xF#4]
  | .extbwEr2 => [packWord 0x8#4 0x3#4 0x2#4 0xF#4]
  | .extbwEr4 => [packWord 0x8#4 0x5#4 0x4#4 0xF#4]
  | .extbwEr6 => [packWord 0x8#4 0x7#4 0x6#4 0xF#4]
  | .extbwEr8 => [packWord 0x8#4 0x9#4 0x8#4 0xF#4]
  | .extbwEr10 => [packWord 0x8#4 0xB#4 0xA#4 0xF#4]
  | .extbwEr12 => [packWord 0x8#4 0xD#4 0xC#4 0xF#4]
  | .extbwEr14 => [packWord 0x8#4 0xF#4 0xE#4 0xF#4]
  | .swi snum => [packWord 0xE#4 0x5#4 (0b00#2 ++ snum.extractLsb' 4 2) (snum.extractLsb' 0 4)]
  | .brk => [packWord 0xF#4 0xF#4 0xF#4 0xF#4]
  | .bCadr g cadr => [packWord 0xF#4 g 0x0#4 0x0#4, cadr]
  | .bErn n => [packWord 0xF#4 0x0#4 n 0x2#4]
  | .blCadr g cadr => [packWord 0xF#4 g 0x0#4 0x1#4, cadr]
  | .blErn n => [packWord 0xF#4 0x0#4 n 0x3#4]
  | .mulErnRm n m => [packWord 0xF#4 n m 0x4#4]
  | .divErnRm n m => [packWord 0xF#4 n m 0x9#4]
  | .incEa => [packWord 0xF#4 0xE#4 0x2#4 0xF#4]
  | .decEa => [packWord 0xF#4 0xE#4 0x3#4 0xF#4]
  | .rt => [packWord 0xF#4 0xE#4 0x1#4 0xF#4]
  | .rti => [packWord 0xF#4 0xE#4 0x0#4 0xF#4]
  | .nop => [packWord 0xF#4 0xE#4 0x8#4 0xF#4]

/-- The bytes of an instruction. -/
def encodeBytes (i : Instr) : List Byte := wordBytes (encode i)

end Sys2Proof
end

