-- ==== Sys2Proof/Machine/Flags.lean ====
section
/-! DEFINITION. The program status word and every flag computation the spec gives
(spec/10_state.md R14, R15; spec/40_arithmetic.md R121; spec/47_branch_swi.md R321). -/

namespace Sys2Proof.Machine

/-! ## The fields of the PSW -/

/-- The one-bit fields of the PSW (spec/10_state.md R14). -/
inductive Flag where
  | c
  | z
  | s
  | ov
  | mie
  | hc
  deriving DecidableEq, Repr

/-- The PSW bit of a field (spec/10_state.md R14). -/
def Flag.bit : Flag → Nat
  | .c => 7
  | .z => 6
  | .s => 5
  | .ov => 4
  | .mie => 3
  | .hc => 2

/-- The value of a field. -/
def getFlag (psw : Byte) (f : Flag) : Bool := psw.getLsbD f.bit

/-- The PSW with one field replaced. -/
def setFlag (psw : Byte) (f : Flag) (v : Bool) : Byte :=
  if v then psw ||| (0x01#8 <<< f.bit) else psw &&& ~~~(0x01#8 <<< f.bit)

/-- ELEVEL, bits 1:0 (spec/10_state.md R14). -/
def elevel (psw : Byte) : BitVec 2 := psw.extractLsb' 0 2

/-- The PSW with ELEVEL replaced. -/
def setElevel (psw : Byte) (k : BitVec 2) : Byte := psw.extractLsb' 2 6 ++ k

/-! ## The arithmetic flag functions (spec/40_arithmetic.md R121) -/

/-- What ADDF and SUBF give: the result and its flags, `z` being `Zr`. -/
structure AluResult (w : Nat) where
  value : BitVec w
  c : Bool
  hc : Bool
  ov : Bool
  s : Bool
  z : Bool
  deriving DecidableEq, Repr

/-- `h` of R121, the bits below the half carry: 4 for bytes, 12 for words. -/
def halfWidth (w : Nat) : Nat := w - 4

/-- `x` lies outside the twos complement range of `w` bits. -/
def outsideSigned (w : Nat) (x : Int) : Bool := decide (x < -(2 ^ (w - 1))) || decide (2 ^ (w - 1) ≤ x)

/-- ADDF(w, a, b, cin). -/
def addF {w : Nat} (a b : BitVec w) (cin : Bool) : AluResult w :=
  let full := a.toNat + b.toNat + cin.toNat
  let r := BitVec.ofNat w full
  let h := halfWidth w
  { value := r
    c := decide (2 ^ w ≤ full)
    hc := decide (2 ^ h ≤ a.toNat % 2 ^ h + b.toNat % 2 ^ h + cin.toNat)
    ov := outsideSigned w (a.toInt + b.toInt + (cin.toNat : Int))
    s := r.msb
    z := r == 0 }

/-- SUBF(w, a, b, bin); `c` is the borrow (log 21). -/
def subF {w : Nat} (a b : BitVec w) (bin : Bool) : AluResult w :=
  let r := a - b - BitVec.ofNat w bin.toNat
  let h := halfWidth w
  { value := r
    c := decide (a.toNat < b.toNat + bin.toNat)
    hc := decide (a.toNat % 2 ^ h < b.toNat % 2 ^ h + bin.toNat)
    ov := outsideSigned w (a.toInt - b.toInt - (bin.toNat : Int))
    s := r.msb
    z := r == 0 }

/-- C, Z, S, OV and HC as an arithmetic result gives them. -/
def pswArith {w : Nat} (psw : Byte) (x : AluResult w) : Byte :=
  setFlag (setFlag (setFlag (setFlag (setFlag psw .c x.c) .z x.z) .s x.s) .ov x.ov) .hc x.hc

/-- As `pswArith`, but Z stays 1 only if it was 1: the with-carry rule of ADDC, SUBC, CMPC. -/
def pswArithCarry {w : Nat} (psw : Byte) (x : AluResult w) : Byte :=
  pswArith psw { x with z := getFlag psw .z && x.z }

/-- Z, S, OV and HC as an arithmetic result gives them, C kept: INC and DEC
(spec/48_muldiv_misc.md R352, R353). -/
def pswArithKeepC {w : Nat} (psw : Byte) (x : AluResult w) : Byte :=
  setFlag (setFlag (setFlag (setFlag psw .z x.z) .s x.s) .ov x.ov) .hc x.hc

/-- Z and S, the others kept. -/
def pswZS (psw : Byte) (z s : Bool) : Byte := setFlag (setFlag psw .z z) .s s

/-- LOGF(w, r): Z and S from a result, the others kept. -/
def pswLogic {w : Nat} (psw : Byte) (r : BitVec w) : Byte := pswZS psw (r == 0) r.msb

/-- LDF(w, v) of spec/42_load_store.md R174, on the loaded value. -/
def pswLoad (psw : Byte) (w v : Nat) : Byte := pswZS psw (v == 0) (v.testBit (w - 1))

/-! ## Decimal adjustment (spec/46_ea_alu_bit_psw.md R293, R294) -/

/-- What DAA and DAS give. -/
structure DecimalResult where
  value : Byte
  c : Bool
  hc : Bool
  deriving DecidableEq, Repr

/-- The adjustment: 60H for the high digit, 06H for the low one. -/
def decimalAdj (highfix lowfix : Bool) : Byte :=
  (if highfix then 0x60#8 else 0x00#8) + (if lowfix then 0x06#8 else 0x00#8)

/-- DAA of `x` with C and HC before it (spec/46_ea_alu_bit_psw.md R293; log 24). -/
def daaF (x : Byte) (c hc : Bool) : DecimalResult :=
  let hi := x.toNat / 16
  let lo := x.toNat % 16
  let lowfix := hc || decide (9 < lo)
  let highfix := c || decide (9 < hi) || (decide (hi = 9) && !hc && decide (9 < lo))
  let adj := decimalAdj highfix lowfix
  { value := x + adj
    c := highfix
    hc := decide (0x0F < lo + adj.toNat % 16) }

/-- DAS of `x` with C and HC before it (spec/46_ea_alu_bit_psw.md R294; log 24). -/
def dasF (x : Byte) (c hc : Bool) : DecimalResult :=
  let hi := x.toNat / 16
  let lo := x.toNat % 16
  let lowfix := hc || decide (9 < lo)
  let highfix := c || decide (9 < hi)
  let adj := decimalAdj highfix lowfix
  { value := x - adj
    c := c || decide (x.toNat < adj.toNat)
    hc := decide (lo < adj.toNat % 16) }

/-- C, Z, S and HC as a decimal adjustment gives them, OV kept. -/
def pswDecimal (psw : Byte) (x : DecimalResult) : Byte :=
  setFlag (setFlag (setFlag (setFlag psw .c x.c) .z (x.value == 0)) .s x.value.msb) .hc x.hc

/-! ## Conditions (spec/47_branch_swi.md R321) -/

/-- The fifteen conditions. -/
inductive Cond where
  | ge
  | lt
  | gt
  | le
  | ges
  | lts
  | gts
  | les
  | ne
  | eq
  | nv
  | ov
  | ps
  | ns
  | al
  deriving DecidableEq, Repr

/-- When a condition is true. -/
def Cond.holds (k : Cond) (psw : Byte) : Bool :=
  let c := getFlag psw .c
  let z := getFlag psw .z
  let s := getFlag psw .s
  let ov := getFlag psw .ov
  match k with
  | .ge => !c
  | .lt => c
  | .gt => !c && !z
  | .le => z || c
  | .ges => !(ov ^^ s)
  | .lts => ov ^^ s
  | .gts => !((ov ^^ s) || z)
  | .les => (ov ^^ s) || z
  | .ne => !z
  | .eq => z
  | .nv => !ov
  | .ov => ov
  | .ps => !s
  | .ns => s
  | .al => true

end Sys2Proof.Machine
end

