-- ==== Sys2Proof/Config.lean ====
section
/-! DEFINITION. What a product fixes (the OPEN parameters of spec/92_eei_decisions.md, D1 to D4) and
the free values the spec leaves open (`draw` of spec/00_scope.md R6). A machine's parameters are
data in its state (field `cfg`), so a statement over all states is a statement over all products;
how a product's devices behave is a constant without a body, so every statement holds of every
behaviour. -/

namespace Sys2Proof

/-- MEMORY_MODEL (spec/20_memory.md R69, spec/92_eei_decisions.md D1). -/
inductive MemModel where
  | small
  | large
  deriving DecidableEq, Repr

/-- What a data address holds (DataMap, spec/92_eei_decisions.md D3); an address in no region is
unimplemented. -/
inductive RegionKind where
  | ram
  | rom
  /-- A device of the product, under the number the product gives it; `Config.deviceRead` is its
  behaviour. -/
  | device (id : Nat)
  deriving DecidableEq, Repr

/-- One thing the devices of a product see (spec/20_memory.md R70), addresses being 24 bits wide. -/
inductive DeviceEvent where
  /-- A read of the byte at a device address. -/
  | read (addr : Nat)
  /-- A write of a byte to a device address. -/
  | write (addr : Nat) (v : Byte)
  /-- An instruction boundary: time passes between two accesses. -/
  | boundary
  /-- The reset sequence. -/
  | reset
  deriving DecidableEq, Repr

/-- One region of data memory: the 24-bit addresses `lo` to `hi`, both included. -/
structure Region where
  lo : Nat
  hi : Nat
  kind : RegionKind
  deriving DecidableEq, Repr

/-- One range of implemented code memory: the 20-bit addresses `lo` to `hi`, both included. -/
structure CodeRange where
  lo : Nat
  hi : Nat
  deriving DecidableEq, Repr

/-- The parameters a product fixes (spec/00_scope.md R3). `Coproc` is the default register file and
`IntCtl` is the list `inputs` of the state, so neither stands here. -/
structure Config where
  /-- MEMORY_MODEL. -/
  model : MemModel
  /-- ROMWIN_LO, the first offset of the ROM window in data segment 0. -/
  romWinLo : Word
  /-- ROMWIN_HI, the last offset of the ROM window; the window is empty when it lies below
  `romWinLo`. -/
  romWinHi : Word
  /-- DataMap, its data part: the first region holding an address decides. -/
  dataMap : List Region
  /-- DataMap, its code part. -/
  codeMap : List CodeRange
  /-- HAS_LEVEL3. -/
  hasLevel3 : Bool
  deriving DecidableEq, Repr

/-- DESIGN CHOICE (log 1), unsafe: the product `State.reset` describes. The LARGE model, an empty ROM
window, every data address RAM, every code address present, the level-3 registers present: it stops
nowhere for want of a part. -/
def Config.everything : Config where
  model := .large
  romWinLo := 0x0001#16
  romWinHi := 0x0000#16
  dataMap := [⟨0x000000, 0xFFFFFF, .ram⟩]
  codeMap := [⟨0x00000, 0xFFFFF⟩]
  hasLevel3 := true

/-- The read and write behaviour of the product's devices (spec/92_eei_decisions.md D3; log 37): the byte
device `id` gives when its address is read, after everything the devices have seen, oldest first.
What a write does is what it changes in later reads. -/
opaque Config.deviceRead (id : Nat) (seen : List DeviceEvent) (addr : Nat) : Byte

/-- The n-th free byte (log 5): `draw(8)`. -/
opaque Config.freeByte : Nat → Byte

/-- The n-th free nibble (log 5): `draw(4)`. -/
opaque Config.freeNibble : Nat → Nibble

/-- The n-th free word (log 5): `draw(16)`. -/
opaque Config.freeWord : Nat → Word

/-- The n-th free bit (log 5): `draw(1)`, and the choice R420 leaves in the window after EI. -/
opaque Config.freeBit : Nat → Bool

end Sys2Proof
end

