-- ==== Sys2Proof/Machine/Memory.lean ====
section
/-! DEFINITION. Memory as plain data: a list of cells in one canonical form, and the two operations
on one byte (spec/20_memory.md R53, R54). Where an address lies and whether it may be accessed is
decided in Machine/Ops.lean. -/

namespace Sys2Proof.Machine

/-- The bytes that differ from the blank byte, addresses strictly rising. -/
abbrev Memory := List Host.Cell

/-- What a byte that nothing has written reads as. DESIGN CHOICE (log 2), unsafe: the spec gives
memory no contents at reset. -/
def blankByte : Byte := 0x00#8

/-- The byte at address `a`. -/
def Memory.read : Memory → Nat → Byte
  | [], _ => blankByte
  | (k, v) :: m, a => if k = a then v else Memory.read m a

/-- Memory with nothing listed at address `a`. -/
def Memory.erase (m : Memory) (a : Nat) : Memory := m.filter (fun c => c.1 != a)

/-- Memory with `v` listed at address `a`, put before the first higher address. -/
def Memory.insert : Memory → Nat → Byte → Memory
  | [], a, v => [(a, v)]
  | (k, w) :: m, a, v => if a < k then (a, v) :: (k, w) :: m else (k, w) :: Memory.insert m a v

/-- Memory with the byte at address `a` replaced by `v`; writing the blank byte removes the entry. -/
def Memory.write (m : Memory) (a : Nat) (v : Byte) : Memory :=
  if v = blankByte then Memory.erase m a else Memory.insert (Memory.erase m a) a v

/-- The canonical form: addresses strictly rising, no entry equal to the blank byte. -/
def Memory.wf : Memory → Bool
  | [] => true
  | (k, v) :: m => v != blankByte && m.all (fun c => decide (k < c.1)) && Memory.wf m

/-- Every listed address lies below `bound`. -/
def Memory.below (m : Memory) (bound : Nat) : Bool := m.all (fun c => decide (c.1 < bound))

/-- The little-endian word at addresses `a` and `a + 1` (spec/20_memory.md R56, R62). -/
def Memory.readWord (m : Memory) (a : Nat) : Word := Memory.read m (a + 1) ++ Memory.read m a

end Sys2Proof.Machine
end

