-- ==== Sys2Proof/Machine/State.lean ====
section
/-! DEFINITION. The state of the machine, the reasons a step can stop, and the state right after
reset. Registers are read and written through the accessors of Machine/Operands.lean. -/

namespace Sys2Proof.Machine

/-- A step stops because it accesses an address the product does not implement
(spec/20_memory.md R56, R60, R61; spec/92_eei_decisions.md D3). -/
inductive Fault where
  /-- A data access to an address in no region of the data map. Raised by every instruction that
  accesses data memory. Safe: the spec gives the access no effect. -/
  | unimplementedData (addr : Nat)
  /-- A code read (an instruction fetch, a vector, a read through the ROM window, the check after
  MOV PSW) of an address in no range of the code map. Safe. -/
  | unimplementedCode (addr : Nat)
  deriving DecidableEq, Repr

/-- A step stops because the spec refuses the situation: it gives it no effect. Each is safe. -/
inductive Refusal where
  /-- An instruction without a meaning in this model: none is left. -/
  | notModelled (mnemonic : String)
  /-- Fetch: the word matches no row of the opcode table (spec/30_encoding.md R99). -/
  | unlistedEncoding (w : Word)
  /-- A store into the ROM window (spec/20_memory.md R59). -/
  | romWindowWrite (addr : Nat)
  /-- A store into a ROM region (spec/20_memory.md R61). -/
  | romWrite (addr : Nat)
  /-- A use of ELR3, ECSR3 or EPSW3 on a product without them (spec/10_state.md R21). -/
  | level3Absent
  /-- An emulator interrupt on a product without level 3 (spec/60_exceptions.md R374). -/
  | nmiceWithoutLevel3
  /-- A DSR prefix word right after another (spec/42_load_store.md R168). -/
  | prefixAfterPrefix
  /-- PUSH or POP right after a DSR prefix word (spec/44_push_pop.md R240). -/
  | stackAfterPrefix
  /-- PUSH or POP with an odd SP (spec/44_push_pop.md R241). -/
  | oddStackPointer
  /-- PUSH of ELR or EPSW at ELEVEL 0 (spec/44_push_pop.md R246). -/
  | backupAtLevelZero
  /-- RTI at ELEVEL 0 (spec/48_muldiv_misc.md R355). -/
  | rtiAtLevelZero
  /-- MOV PSW changing ELEVEL without NOP as the next code word (spec/43_control_register.md R227). -/
  | movPswWithoutNop
  /-- MOV PSW taking MIE from 1 to 0 (spec/43_control_register.md R227). -/
  | movPswClearsMie
  /-- DIV whose divisor register is part of its dividend register (spec/48_muldiv_misc.md R351). -/
  | divOverlap
  deriving DecidableEq, Repr

/-- What the reset input and the interrupt controller present at one boundary
(spec/60_exceptions.md R373, spec/70_reset_and_hazards.md R410; log 11, log 35). `mi := some k`
requests the maskable interrupt whose vector is at 000AH + 2k. -/
structure Inputs where
  reset : Bool
  nmice : Bool
  nmi : Bool
  mi : Option (Fin 59)
  deriving DecidableEq, Repr

/-- The acknowledgement of an accepted request (spec/60_exceptions.md R373). -/
inductive Ack where
  | nmice
  | nmi
  | mi (k : Fin 59)
  deriving DecidableEq, Repr

/-- Everything the spec gives the machine (spec/10_state.md, spec/20_memory.md), the parameters of
the product, and five fields of the model's own: `deviceLog`, `inputs`, `ack`, `eiWindow`, `draws`. -/
structure State where
  /-- The product's parameters; no step writes them (spec/10_state.md R33). -/
  cfg : Config
  /-- R0 to R15 (R10). -/
  regs : Vector (BitVec 8) 16
  /-- CR0 to CR15 (R27). -/
  cregs : Vector (BitVec 8) 16
  /-- PSW: C Z S OV MIE HC ELEVEL, from bit 7 down (R14). -/
  psw : BitVec 8
  /-- PC (R16). -/
  pc : BitVec 16
  /-- CSR (R17). -/
  csr : BitVec 4
  /-- LR (R18). -/
  lr : BitVec 16
  /-- LCSR (R19). -/
  lcsr : BitVec 4
  /-- ELR1 (R18). -/
  elr1 : BitVec 16
  /-- ELR2 (R18). -/
  elr2 : BitVec 16
  /-- ELR3 (R18, R21). -/
  elr3 : BitVec 16
  /-- ECSR1 (R19). -/
  ecsr1 : BitVec 4
  /-- ECSR2 (R19). -/
  ecsr2 : BitVec 4
  /-- ECSR3 (R19, R21). -/
  ecsr3 : BitVec 4
  /-- EPSW1 (R20). -/
  epsw1 : BitVec 8
  /-- EPSW2 (R20). -/
  epsw2 : BitVec 8
  /-- EPSW3 (R20, R21). -/
  epsw3 : BitVec 8
  /-- SP (R23). -/
  sp : BitVec 16
  /-- EA (R24). -/
  ea : BitVec 16
  /-- AR (R25): the offset of the last data byte accessed; no instruction reads it (log 10). -/
  ar : BitVec 16
  /-- DSR (R26). -/
  dsr : BitVec 8
  /-- The DSR-prefix latch (R29). -/
  dsrPrefix : Bool
  /-- The interrupt-blocking latch (R30). -/
  intBlock : Bool
  /-- The model's own: boundaries left at which accepting a maskable request after EI is optional
  (spec/70_reset_and_hazards.md R420; log 13). -/
  eiWindow : Nat
  /-- Code memory of segment 0, by offset (spec/20_memory.md R53). -/
  code : Memory
  /-- Data memory of segment 0 and the shared segments 1 to 255, by 65536 * segment + offset
  (spec/20_memory.md R53, R54). -/
  data : Memory
  /-- The model's own: everything the product's devices have seen, oldest first, which is the state they
  are in (spec/20_memory.md R70; spec/92_eei_decisions.md D3; log 37). -/
  deviceLog : List DeviceEvent
  /-- The model's own: what the coming boundaries present, first first (log 11). -/
  inputs : List Inputs
  /-- The model's own: what the last step acknowledged (log 11). -/
  ack : Option Ack
  /-- The model's own: the index of the next free value (log 5). -/
  draws : Nat
  deriving DecidableEq, Repr

/-- The machine right after reset (spec/10_state.md R34, spec/70_reset_and_hazards.md R410) with
nothing placed in memory (log 2, log 4). PSW, CSR, DSR, SP, PC and the two latches are as the spec
says. DESIGN CHOICE (log 1, log 3), unsafe: the parameters, and zero for every register the spec
gives no reset value. -/
def State.reset : State where
  cfg := Config.everything
  regs := Vector.replicate 16 0x00#8
  cregs := Vector.replicate 16 0x00#8
  psw := 0x00#8
  pc := Memory.readWord [] 0x0002 &&& 0xFFFE#16
  csr := 0x0#4
  lr := 0x0000#16
  lcsr := 0x0#4
  elr1 := 0x0000#16
  elr2 := 0x0000#16
  elr3 := 0x0000#16
  ecsr1 := 0x0#4
  ecsr2 := 0x0#4
  ecsr3 := 0x0#4
  epsw1 := 0x00#8
  epsw2 := 0x00#8
  epsw3 := 0x00#8
  sp := Memory.readWord [] 0x0000
  ea := 0x0000#16
  ar := 0x0000#16
  dsr := 0x00#8
  dsrPrefix := false
  intBlock := true
  eiWindow := 0
  code := []
  data := []
  deviceLog := []
  inputs := []
  ack := none
  draws := 0

end Sys2Proof.Machine
end

