-- ==== Sys2Proof/Machine/Operands.lean ====
section
/-! DEFINITION. Registers and operand forms: every read and write of a register goes through an
accessor here, and every immediate, displacement and addressing mode is computed here
(spec/10_state.md; spec/30_encoding.md R93 to R96; spec/42_load_store.md R169 to R173). -/

namespace Sys2Proof.Machine

/-! ## Words -/

/-- Bit 0 forced to 0 (spec/10_state.md R16; spec/20_memory.md R63). -/
def evenAddr (a : Word) : Word := a &&& 0xFFFE#16

/-! ## General and coprocessor registers (spec/10_state.md R10, R11, R27) -/

/-- R[n]. -/
def State.r (s : State) (n : RegNo) : Byte := s.regs.get n.toFin

/-- R[n] <- v. -/
def State.setR (s : State) (n : RegNo) (v : Byte) : State :=
  { s with regs := s.regs.set n.toNat v n.isLt }

/-- ER[n], the low byte in R[n]. -/
def State.er (s : State) (n : RegNo) : Word := mkWord (s.r (n + 1)) (s.r n)

/-- ER[n] <- v. -/
def State.setEr (s : State) (n : RegNo) (v : Word) : State :=
  (s.setR n (loByte v)).setR (n + 1) (hiByte v)

/-- The `k` bytes R[n], R[n+1], ..., lowest register first: ERn, XRn, QRn as memory holds them
(spec/20_memory.md R62). -/
def State.rBytes (s : State) (n : RegNo) : Nat → List Byte
  | 0 => []
  | k + 1 => s.r n :: s.rBytes (n + 1) k

/-- R[n], R[n+1], ... <- the bytes of a list, lowest register first. -/
def State.setRBytes (s : State) (n : RegNo) : List Byte → State
  | [] => s
  | b :: bs => (s.setR n b).setRBytes (n + 1) bs

/-- CR[n] (log 31). -/
def State.cr (s : State) (n : RegNo) : Byte := s.cregs.get n.toFin

/-- CR[n] <- v. -/
def State.setCr (s : State) (n : RegNo) (v : Byte) : State :=
  { s with cregs := s.cregs.set n.toNat v n.isLt }

/-- The `k` bytes CR[n], CR[n+1], ... -/
def State.crBytes (s : State) (n : RegNo) : Nat → List Byte
  | 0 => []
  | k + 1 => s.cr n :: s.crBytes (n + 1) k

/-- CR[n], CR[n+1], ... <- the bytes of a list. -/
def State.setCrBytes (s : State) (n : RegNo) : List Byte → State
  | [] => s
  | b :: bs => (s.setCr n b).setCrBytes (n + 1) bs

/-- The little-endian value of bytes (spec/20_memory.md R60, R62). -/
def leNat : List Byte → Nat
  | [] => 0
  | b :: bs => b.toNat + 256 * leNat bs

/-- The first two bytes of a list as a little-endian word. -/
def leWord (bs : List Byte) : Word := BitVec.ofNat 16 (leNat bs)

/-! ## Segment registers: not used in the SMALL model (spec/10_state.md R17, R19; log 20) -/

/-- Whether CSR and its backups are used. -/
def State.isLarge (s : State) : Bool := s.cfg.model == .large

/-- What a four-bit segment register reads as. -/
def State.segRead (s : State) (v : Nibble) : Nibble := if s.isLarge then v else 0x0#4

/-- What a four-bit segment register holds after a write of `v` over `old`. -/
def State.segWrite (s : State) (old v : Nibble) : Nibble := if s.isLarge then v else old

/-- CSR. -/
def State.codeSeg (s : State) : Nibble := s.segRead s.csr

/-- CSR <- v. -/
def State.setCodeSeg (s : State) (v : Nibble) : State := { s with csr := s.segWrite s.csr v }

/-- LCSR. -/
def State.linkSeg (s : State) : Nibble := s.segRead s.lcsr

/-- LCSR <- v. -/
def State.setLinkSeg (s : State) (v : Nibble) : State := { s with lcsr := s.segWrite s.lcsr v }

/-! ## PC and LR: bit 0 is always 0 (spec/10_state.md R16, R18; log 18) -/

/-- pc <- v. -/
def State.setPc (s : State) (v : Word) : State := { s with pc := evenAddr v }

/-- LR <- v. -/
def State.setLr (s : State) (v : Word) : State := { s with lr := evenAddr v }

/-- NextPC for an instruction of `words` words (spec/00_scope.md R6). -/
def State.nextPc (s : State) (words : Nat) : Word := evenAddr (s.pc + BitVec.ofNat 16 (2 * words))

/-! ## Backup registers, indexed by exception level (spec/10_state.md R18 to R22) -/

/-- The index of a set of backup registers. -/
inductive Bank where
  | one
  | two
  | three
  deriving DecidableEq, Repr

/-- The exception level of a set. -/
def Bank.level : Bank → BitVec 2
  | .one => 1#2
  | .two => 2#2
  | .three => 3#2

/-- The set of an exception level; level 0 has none (spec/10_state.md R22). -/
def bankOf (k : BitVec 2) : Option Bank :=
  match k with
  | 0#2 => none
  | 1#2 => some .one
  | 2#2 => some .two
  | _ => some .three

/-- The set the current ELEVEL selects. -/
def State.bank (s : State) : Option Bank := bankOf (elevel s.psw)

/-- Whether a set exists: the third only with HAS_LEVEL3 (spec/10_state.md R21). -/
def State.hasBank (s : State) : Bank → Bool
  | .three => s.cfg.hasLevel3
  | _ => true

/-- ELR[k]. -/
def State.elr (s : State) : Bank → Word
  | .one => s.elr1
  | .two => s.elr2
  | .three => s.elr3

/-- ELR[k] <- v, bit 0 cleared. -/
def State.setElr (s : State) (k : Bank) (v : Word) : State :=
  match k with
  | .one => { s with elr1 := evenAddr v }
  | .two => { s with elr2 := evenAddr v }
  | .three => { s with elr3 := evenAddr v }

/-- ECSR[k]. -/
def State.ecsr (s : State) : Bank → Nibble
  | .one => s.segRead s.ecsr1
  | .two => s.segRead s.ecsr2
  | .three => s.segRead s.ecsr3

/-- ECSR[k] <- v. -/
def State.setEcsr (s : State) (k : Bank) (v : Nibble) : State :=
  match k with
  | .one => { s with ecsr1 := s.segWrite s.ecsr1 v }
  | .two => { s with ecsr2 := s.segWrite s.ecsr2 v }
  | .three => { s with ecsr3 := s.segWrite s.ecsr3 v }

/-- EPSW[k]. -/
def State.epsw (s : State) : Bank → Byte
  | .one => s.epsw1
  | .two => s.epsw2
  | .three => s.epsw3

/-- EPSW[k] <- v. -/
def State.setEpsw (s : State) (k : Bank) (v : Byte) : State :=
  match k with
  | .one => { s with epsw1 := v }
  | .two => { s with epsw2 := v }
  | .three => { s with epsw3 := v }

/-! ## Immediates and displacements (spec/30_encoding.md R95, R96) -/

/-- A signed 7-bit immediate at 16 bits. -/
def sext7 (v : BitVec 7) : Word := v.signExtend 16

/-- A signed 8-bit immediate at 16 bits. -/
def sext8 (v : Byte) : Word := v.signExtend 16

/-- A signed 6-bit displacement at 16 bits. -/
def sext6 (v : BitVec 6) : Word := v.signExtend 16

/-- The target of a conditional branch: NextPC plus twice the signed field. -/
def State.branchTarget (s : State) (radr : Byte) : Word := s.nextPc 1 + 2#16 * sext8 radr

/-! ## Addressing modes (spec/42_load_store.md R169 to R173) -/

/-- BP, another name of ER12 (spec/10_state.md R12). -/
def bp : RegNo := 12#4

/-- FP, another name of ER14. -/
def fp : RegNo := 14#4

/-- `Disp16[ERm]`. -/
def State.addrDisp16 (s : State) (m : RegNo) (disp : Word) : Word := s.er m + disp

/-- `Disp6[BP]` (`base := bp`) and `Disp6[FP]` (`base := fp`). -/
def State.addrDisp6 (s : State) (base : RegNo) (disp : BitVec 6) : Word := s.er base + sext6 disp

/-- EA after an `[EA+]` access of `size` bytes (spec/42_load_store.md R170). -/
def eaAfter (ea : Word) (size : Nat) : Word :=
  if size = 1 then ea + 1#16 else evenAddr (ea + BitVec.ofNat 16 size)

/-- `dseg`, the data segment of this instruction (spec/42_load_store.md R168). -/
def State.dseg (s : State) : Byte := if s.dsrPrefix then s.dsr else 0x00#8

end Sys2Proof.Machine
end

