-- ==== Sys2Proof/Machine/Ops.lean ====
section
/-! DEFINITION. The named operations the meanings are written over: the memory primitives
(spec/20_memory.md R56 to R65), the end of an instruction, loads and stores, the stack
(spec/44_push_pop.md), taking an exception and returning from one (spec/60_exceptions.md R376, R382),
and the reset sequence (spec/70_reset_and_hazards.md R410). -/

namespace Sys2Proof.Machine

/-! ## Outcomes -/

/-- The outcome of an operation that gives an `α`. -/
abbrev Res (α : Type) := Host.Outcome α Fault Refusal

/-- Go on with the value of `x`, or stop as `x` stops. -/
def andThen {α β : Type} (x : Res α) (f : α → Res β) : Res β :=
  match x with
  | .next a => f a
  | .fault e => .fault e
  | .refused e => .refused e

/-! ## Where an address lies (spec/92_eei_decisions.md D2, D3) -/

/-- The 20-bit code address or 24-bit data address of an offset in a segment
(spec/20_memory.md R51, R52). -/
def flatAddr {w : Nat} (seg : BitVec w) (off : Word) : Nat := seg.toNat * 65536 + off.toNat

/-- What the data map says of an address; `none` is unimplemented. -/
def dataKind (cfg : Config) (a : Nat) : Option RegionKind :=
  (cfg.dataMap.find? fun g => decide (g.lo ≤ a) && decide (a ≤ g.hi)).map fun g => g.kind

/-- Whether code memory exists at an address. -/
def codePresent (cfg : Config) (a : Nat) : Bool :=
  cfg.codeMap.any fun g => decide (g.lo ≤ a) && decide (a ≤ g.hi)

/-- Whether a data address lies in the ROM window (spec/20_memory.md R58). -/
def inRomWindow (cfg : Config) (seg : Byte) (off : Word) : Bool :=
  seg == 0x00#8 && decide (cfg.romWinLo ≤ off) && decide (off ≤ cfg.romWinHi)

/-- What a data access finds at an address. -/
inductive Place where
  | window
  | ram
  | rom
  | device (id : Nat)
  | nothing
  deriving DecidableEq, Repr

/-- The ROM window is looked at before the data map (log 9). -/
def dataPlace (cfg : Config) (seg : Byte) (off : Word) : Place :=
  if inRomWindow cfg seg off then .window
  else
    match dataKind cfg (flatAddr seg off) with
    | some .ram => .ram
    | some .rom => .rom
    | some (.device id) => .device id
    | none => .nothing

/-- Whether an access reaches a device. -/
def isDevice (cfg : Config) (seg : Byte) (off : Word) : Bool :=
  match dataPlace cfg seg off with
  | .device _ => true
  | .window => false
  | .ram => false
  | .rom => false
  | .nothing => false

/-- What the devices see of an access: `event` at its address, if it reaches one. -/
def deviceSees (cfg : Config) (seg : Byte) (off : Word) (event : Nat → DeviceEvent) :
    List DeviceEvent :=
  if isDevice cfg seg off then [event (flatAddr seg off)] else []

/-! ## Code memory (spec/20_memory.md R56) -/

/-- CodeByte(seg, off): segment 0 is code memory of its own, the others are shared with data. -/
def State.codeByte (s : State) (seg : Nibble) (off : Word) : Res Byte :=
  if codePresent s.cfg (flatAddr seg off) then
    .next (if seg = 0x0#4 then s.code.read off.toNat else s.data.read (flatAddr seg off))
  else .fault (.unimplementedCode (flatAddr seg off))

/-- CodeRead16(seg, off). -/
def State.codeRead16 (s : State) (seg : Nibble) (off : Word) : Res Word :=
  andThen (s.codeByte seg (evenAddr off)) fun lo =>
  andThen (s.codeByte seg (evenAddr off + 1#16)) fun hi =>
  .next (mkWord hi lo)

/-! ## Data memory (spec/20_memory.md R60, R61) -/

/-- DataByteRead(seg, off), the byte alone: code memory inside the ROM window, else what the data map
says (log 8, log 9); a device answers as the product defines (log 37). -/
def State.readByte (s : State) (seg : Byte) (off : Word) : Res Byte :=
  match dataPlace s.cfg seg off with
  | .window => s.codeByte 0x0#4 off
  | .ram => .next (s.data.read (flatAddr seg off))
  | .rom => .next (s.data.read (flatAddr seg off))
  | .device id => .next (Config.deviceRead id s.deviceLog (flatAddr seg off))
  | .nothing => .fault (.unimplementedData (flatAddr seg off))

/-- The state once a byte is read: AR holds its offset (log 10), and a device has seen the read. -/
def State.afterRead (s : State) (seg : Byte) (off : Word) : State :=
  { s with deviceLog := s.deviceLog ++ deviceSees s.cfg seg off .read, ar := off }

/-- One byte of MemWrite: to a device, what the product defines, later reads depending on it
(log 37). -/
def State.writeByte (s : State) (seg : Byte) (off : Word) (v : Byte) : Res State :=
  match dataPlace s.cfg seg off with
  | .window => .refused (.romWindowWrite (flatAddr seg off))
  | .ram => .next { s with data := s.data.write (flatAddr seg off) v, ar := off }
  | .rom => .refused (.romWrite (flatAddr seg off))
  | .device _ =>
    .next { s with deviceLog := s.deviceLog ++ [.write (flatAddr seg off) v], ar := off }
  | .nothing => .fault (.unimplementedData (flatAddr seg off))

/-- `n` bytes from offset `a` on, ascending, each accessed once, the offset wrapping inside the
segment, and the state after the last (spec/20_memory.md R64, R65, R70; log 16). -/
def State.readBytes (s : State) (seg : Byte) (a : Word) : Nat → Res (List Byte × State)
  | 0 => .next ([], s)
  | n + 1 =>
    andThen (s.readByte seg a) fun b =>
    andThen ((s.afterRead seg a).readBytes seg (a + 1#16) n) fun r =>
    .next (b :: r.1, r.2)

/-- The bytes of a list to offset `a` on, ascending, the offset wrapping inside the segment. -/
def State.writeBytes (s : State) (seg : Byte) (a : Word) : List Byte → Res State
  | [] => .next s
  | b :: bs => andThen (s.writeByte seg a b) fun t => t.writeBytes seg (a + 1#16) bs

/-- The offset an access of `n` bytes starts at: bit 0 is ignored above byte size
(spec/20_memory.md R63). -/
def accessBase (off : Word) (n : Nat) : Word := if n = 1 then off else evenAddr off

/-- MemRead(seg, off, n): the bytes read, lowest address first, and the state after it. -/
def State.memRead (s : State) (seg : Byte) (off : Word) (n : Nat) : Res (List Byte × State) :=
  s.readBytes seg (accessBase off n) n

/-- MemWrite(seg, off, n, v), `v` as its `n` bytes, lowest address first. -/
def State.memWrite (s : State) (seg : Byte) (off : Word) (bs : List Byte) : Res State :=
  s.writeBytes seg (accessBase off bs.length) bs

/-! ## The end of an instruction (spec/60_exceptions.md R370) -/

/-- Both latches cleared. -/
def State.settle (s : State) : State := { s with dsrPrefix := false, intBlock := false }

/-- `pc <- NextPC` after an instruction of `words` words. -/
def State.advance (s : State) (words : Nat) : State := { s with pc := s.nextPc words }.settle

/-- `pc <- target`. -/
def State.jump (s : State) (target : Word) : State := (s.setPc target).settle

/-- The end of a one-word instruction that writes one byte register and the PSW. -/
def finishR (s : State) (n : RegNo) (v psw' : Byte) : Res State :=
  .next ({ s.setR n v with psw := psw' }.advance 1)

/-- The end of a one-word instruction that writes one word register and the PSW. -/
def finishEr (s : State) (n : RegNo) (v : Word) (psw' : Byte) : Res State :=
  .next ({ s.setEr n v with psw := psw' }.advance 1)

/-- The end of a one-word instruction that writes only the PSW. -/
def finishPsw (s : State) (psw' : Byte) : Res State := .next ({ s with psw := psw' }.advance 1)

/-! ## Loads and stores (spec/42_load_store.md R174) -/

/-- L: `size` bytes at `off` into the registers from `n` on, Z and S from the value, EA left at
`ea'`. -/
def loadRegs (s : State) (n : RegNo) (size : Nat) (off ea' : Word) (words : Nat) : Res State :=
  andThen (s.memRead s.dseg off size) fun r =>
  .next ({ r.2.setRBytes n r.1 with
            psw := pswLoad s.psw (8 * size) (leNat r.1), ea := ea' }.advance words)

/-- ST: `bs` to `off`, EA left at `ea'`; no flag changes. -/
def storeBytes (s : State) (bs : List Byte) (off ea' : Word) (words : Nat) : Res State :=
  andThen (s.memWrite s.dseg off bs) fun t => .next ({ t with ea := ea' }.advance words)

/-- MOV CRn,[EA] and its wider forms: `size` bytes at EA into the coprocessor registers from `n`
on; no flag changes (spec/45_coprocessor.md R260). -/
def loadCregs (s : State) (n : RegNo) (size : Nat) (ea' : Word) : Res State :=
  andThen (s.memRead s.dseg s.ea size) fun r =>
  .next ({ r.2.setCrBytes n r.1 with ea := ea' }.advance 1)

/-- One byte of memory read once, changed by `f` and written back once, with the PSW `psw'` gives for
it (spec/20_memory.md R65, R70). -/
def modifyByte (s : State) (off : Word) (f psw' : Byte → Byte) (words : Nat) : Res State :=
  andThen (s.readByte s.dseg off) fun v =>
  andThen ((s.afterRead s.dseg off).writeByte s.dseg off (f v)) fun t =>
  .next ({ t with psw := psw' v }.advance words)

/-! ## The stack, in data segment 0 (spec/44_push_pop.md) -/

/-- The state, if PUSH and POP are defined in it: no prefix before them, SP even
(spec/44_push_pop.md R240, R241). -/
def stackReady (s : State) : Res State :=
  if s.dsrPrefix then .refused .stackAfterPrefix
  else if s.sp.getLsbD 0 then .refused .oddStackPointer
  else .next s

/-- Push the bytes of a list, an even number of them, the first at the lowest address
(spec/44_push_pop.md R243 to R245, R247). -/
def pushBytes (s : State) (bs : List Byte) : Res State :=
  let sp' := s.sp - BitVec.ofNat 16 bs.length
  andThen (s.memWrite 0x00#8 sp' bs) fun t => .next { t with sp := sp' }

/-- Push one byte under a dummy byte, which is a free value (spec/44_push_pop.md R242, R249;
log 5). -/
def pushByte (s : State) (v : Byte) : Res State :=
  let sp' := s.sp - 2#16
  andThen (s.writeByte 0x00#8 (sp' + 1#16) (Config.freeByte s.draws)) fun t =>
  andThen (t.writeByte 0x00#8 sp' v) fun u =>
  .next { u with sp := sp', draws := s.draws + 1 }

/-- Push a code address: its offset in the SMALL model; offset, segment byte and dummy byte in the
LARGE model, the upper half of the segment byte and the dummy being free values
(spec/44_push_pop.md R248, R250; log 5, log 17). -/
def pushCodeAddr (s : State) (off : Word) (seg : Nibble) : Res State :=
  if s.isLarge then
    let sp' := s.sp - 4#16
    andThen (s.writeByte 0x00#8 (sp' + 3#16) (Config.freeByte s.draws)) fun t =>
    andThen (t.writeByte 0x00#8 (sp' + 2#16) (Config.freeNibble s.draws ++ seg)) fun u =>
    andThen (u.memWrite 0x00#8 sp' [loByte off, hiByte off]) fun v =>
    .next { v with sp := sp', draws := s.draws + 1 }
  else pushBytes s [loByte off, hiByte off]

/-- The set of backup registers ELEVEL selects, or the reason there is none
(spec/10_state.md R21, R22). -/
def selectBank (s : State) (atZero : Refusal) : Res Bank :=
  match s.bank with
  | none => .refused atZero
  | some k => if s.hasBank k then .next k else .refused .level3Absent

/-- Item ELR (spec/44_push_pop.md R250). -/
def pushElrItem (s : State) : Res State :=
  andThen (selectBank s .backupAtLevelZero) fun k => pushCodeAddr s (s.elr k) (s.ecsr k)

/-- Item EPSW (spec/44_push_pop.md R249). -/
def pushEpswItem (s : State) : Res State :=
  andThen (selectBank s .backupAtLevelZero) fun k => pushByte s (s.epsw k)

/-- Item LR (spec/44_push_pop.md R248). -/
def pushLrItem (s : State) : Res State := pushCodeAddr s s.lr s.linkSeg

/-- Item EA (spec/44_push_pop.md R247). -/
def pushEaItem (s : State) : Res State := pushBytes s [loByte s.ea, hiByte s.ea]

/-- `op`, if the item is in the list. -/
def whenListed (listed : Bool) (op : State → Res State) (s : State) : Res State :=
  if listed then op s else .next s

/-- PUSH register_list, the arguments being bits 11 to 8 of the word: always in the order ELR, EPSW,
LR, EA (spec/44_push_pop.md R246). -/
def pushList (lr epsw elr ea : Bool) (s : State) : Res State :=
  andThen (stackReady s) fun s0 =>
  andThen (whenListed elr pushElrItem s0) fun s1 =>
  andThen (whenListed epsw pushEpswItem s1) fun s2 =>
  andThen (whenListed lr pushLrItem s2) fun s3 =>
  andThen (whenListed ea pushEaItem s3) fun s4 =>
  .next (s4.advance 1)

/-- SP moved up by `size` (spec/44_push_pop.md R240, R251). -/
def State.popped (s : State) (size : Word) : State := { s with sp := s.sp + size }

/-- A code address from the stack, given to `use`: its offset, and in the LARGE model its segment
(spec/44_push_pop.md R251); in the SMALL model no segment register takes a value. -/
def popCodeAddr (s : State) (use : State → Word → Nibble → State) : Res State :=
  andThen (s.memRead 0x00#8 s.sp 2) fun r =>
  if s.isLarge then
    andThen (r.2.readByte 0x00#8 (s.sp + 2#16)) fun b =>
    .next (use ((r.2.afterRead 0x00#8 (s.sp + 2#16)).popped 4#16) (leWord r.1) (loNibble b))
  else .next (use (r.2.popped 2#16) (leWord r.1) 0x0#4)

/-- Item EA. -/
def popEaItem (s : State) : Res State :=
  andThen (s.memRead 0x00#8 s.sp 2) fun r => .next { r.2.popped 2#16 with ea := leWord r.1 }

/-- Item LR, with LCSR in the LARGE model. -/
def popLrItem (s : State) : Res State :=
  popCodeAddr s fun t off seg => (t.setLinkSeg seg).setLr off

/-- Item PSW; the byte above it is skipped. -/
def popPswItem (s : State) : Res State :=
  andThen (s.readByte 0x00#8 s.sp) fun b =>
  .next { (s.afterRead 0x00#8 s.sp).popped 2#16 with psw := b }

/-- Item PC, with CSR in the LARGE model, as the end of the instruction. -/
def popPcItem (s : State) : Res State :=
  popCodeAddr s fun t off seg => (t.setCodeSeg seg).jump off

/-- POP register_list, the arguments being bits 11 to 8 of the word: always in the order EA, LR, PSW,
PC (spec/44_push_pop.md R251). -/
def popList (lr psw pc ea : Bool) (s : State) : Res State :=
  andThen (stackReady s) fun s0 =>
  andThen (whenListed ea popEaItem s0) fun s1 =>
  andThen (whenListed lr popLrItem s1) fun s2 =>
  andThen (whenListed psw popPswItem s2) fun s3 =>
  if pc then popPcItem s3 else .next (s3.advance 1)

/-! ## Taking an exception and returning from one -/

/-- The entry sequence of level `k` (spec/60_exceptions.md R376): `ret`, CSR and PSW saved in set
`k`, ELEVEL set to `k`, MIE cleared if `clearMie`, CSR 0, PC from the vector, interrupts blocked for
one instruction. -/
def enterException (s : State) (k : Bank) (ret vector : Word) (clearMie : Bool) : Res State :=
  andThen (s.codeRead16 0x0#4 vector) fun target =>
  let saved := ((s.setElr k ret).setEcsr k s.codeSeg).setEpsw k s.psw
  let psw' := setElevel s.psw k.level
  .next { (saved.setCodeSeg 0x0#4).setPc target with
          psw := if clearMie then setFlag psw' .mie false else psw'
          intBlock := true }

/-- The return of RTI: CSR, PSW and PC from the set of the current ELEVEL
(spec/48_muldiv_misc.md R355; spec/60_exceptions.md R382). -/
def returnFromException (s : State) : Res State :=
  andThen (selectBank s .rtiAtLevelZero) fun k =>
  .next ({ s.setCodeSeg (s.ecsr k) with psw := s.epsw k }.jump (s.elr k))

/-- The reset sequence (spec/70_reset_and_hazards.md R410). Every register without a stated reset value
gets a free value; memory is left as it is, and the devices see the reset (log 6, log 7, log 37). -/
def systemReset (s : State) : Res State :=
  andThen (s.codeRead16 0x0#4 0x0000#16) fun spInit =>
  andThen (s.codeRead16 0x0#4 0x0002#16) fun pcInit =>
  let d := s.draws
  .next { s with
    psw := 0x00#8, csr := 0x0#4, dsr := 0x00#8, sp := spInit, pc := evenAddr pcInit
    dsrPrefix := false, intBlock := true, eiWindow := 0
    deviceLog := s.deviceLog ++ [.reset]
    regs := Vector.ofFn fun i => Config.freeByte (d + i.val)
    cregs := Vector.ofFn fun i => Config.freeByte (d + 16 + i.val)
    epsw1 := Config.freeByte (d + 32)
    epsw2 := Config.freeByte (d + 33)
    epsw3 := Config.freeByte (d + 34)
    ea := Config.freeWord d
    ar := Config.freeWord (d + 1)
    lr := evenAddr (Config.freeWord (d + 2))
    elr1 := evenAddr (Config.freeWord (d + 3))
    elr2 := evenAddr (Config.freeWord (d + 4))
    elr3 := evenAddr (Config.freeWord (d + 5))
    lcsr := s.segRead (Config.freeNibble d)
    ecsr1 := s.segRead (Config.freeNibble (d + 1))
    ecsr2 := s.segRead (Config.freeNibble (d + 2))
    ecsr3 := s.segRead (Config.freeNibble (d + 3))
    draws := d + 35 }

end Sys2Proof.Machine
end

