-- ==== Sys2Proof/Machine/Arithmetic.lean ====
section
/-! DEFINITION. The arithmetic instructions (spec/40_arithmetic.md). -/

namespace Sys2Proof.Machine

/-- ADD Rn,Rm (R122). -/
def execAddRnRm (n m : RegNo) (s : State) : Res State :=
  let x := addF (s.r n) (s.r m) false
  finishR s n x.value (pswArith s.psw x)

/-- ADD Rn,#imm8 (R123). -/
def execAddRnImm8 (n : RegNo) (imm : Byte) (s : State) : Res State :=
  let x := addF (s.r n) imm false
  finishR s n x.value (pswArith s.psw x)

/-- MOV Rn,Rm (R124). -/
def execMovRnRm (n m : RegNo) (s : State) : Res State := finishR s n (s.r m) (pswLogic s.psw (s.r m))

/-- MOV Rn,#imm8 (R125). -/
def execMovRnImm8 (n : RegNo) (imm : Byte) (s : State) : Res State :=
  finishR s n imm (pswLogic s.psw imm)

/-- ADDC Rn,Rm (R126). -/
def execAddcRnRm (n m : RegNo) (s : State) : Res State :=
  let x := addF (s.r n) (s.r m) (getFlag s.psw .c)
  finishR s n x.value (pswArithCarry s.psw x)

/-- ADDC Rn,#imm8 (R127). -/
def execAddcRnImm8 (n : RegNo) (imm : Byte) (s : State) : Res State :=
  let x := addF (s.r n) imm (getFlag s.psw .c)
  finishR s n x.value (pswArithCarry s.psw x)

/-- CMP Rn,Rm (R128). -/
def execCmpRnRm (n m : RegNo) (s : State) : Res State :=
  finishPsw s (pswArith s.psw (subF (s.r n) (s.r m) false))

/-- CMP Rn,#imm8 (R129). -/
def execCmpRnImm8 (n : RegNo) (imm : Byte) (s : State) : Res State :=
  finishPsw s (pswArith s.psw (subF (s.r n) imm false))

/-- CMPC Rn,Rm (R130). -/
def execCmpcRnRm (n m : RegNo) (s : State) : Res State :=
  finishPsw s (pswArithCarry s.psw (subF (s.r n) (s.r m) (getFlag s.psw .c)))

/-- CMPC Rn,#imm8 (R131). -/
def execCmpcRnImm8 (n : RegNo) (imm : Byte) (s : State) : Res State :=
  finishPsw s (pswArithCarry s.psw (subF (s.r n) imm (getFlag s.psw .c)))

/-- AND Rn,Rm (R132). -/
def execAndRnRm (n m : RegNo) (s : State) : Res State :=
  let r := s.r n &&& s.r m
  finishR s n r (pswLogic s.psw r)

/-- AND Rn,#imm8 (R133). -/
def execAndRnImm8 (n : RegNo) (imm : Byte) (s : State) : Res State :=
  let r := s.r n &&& imm
  finishR s n r (pswLogic s.psw r)

/-- OR Rn,Rm (R134). -/
def execOrRnRm (n m : RegNo) (s : State) : Res State :=
  let r := s.r n ||| s.r m
  finishR s n r (pswLogic s.psw r)

/-- OR Rn,#imm8 (R135). -/
def execOrRnImm8 (n : RegNo) (imm : Byte) (s : State) : Res State :=
  let r := s.r n ||| imm
  finishR s n r (pswLogic s.psw r)

/-- XOR Rn,Rm (R136). -/
def execXorRnRm (n m : RegNo) (s : State) : Res State :=
  let r := s.r n ^^^ s.r m
  finishR s n r (pswLogic s.psw r)

/-- XOR Rn,#imm8 (R137). -/
def execXorRnImm8 (n : RegNo) (imm : Byte) (s : State) : Res State :=
  let r := s.r n ^^^ imm
  finishR s n r (pswLogic s.psw r)

/-- SUB Rn,Rm (R138). -/
def execSubRnRm (n m : RegNo) (s : State) : Res State :=
  let x := subF (s.r n) (s.r m) false
  finishR s n x.value (pswArith s.psw x)

/-- SUBC Rn,Rm (R139). -/
def execSubcRnRm (n m : RegNo) (s : State) : Res State :=
  let x := subF (s.r n) (s.r m) (getFlag s.psw .c)
  finishR s n x.value (pswArithCarry s.psw x)

/-- MOV ERn,ERm (R140). -/
def execMovErnErm (n m : RegNo) (s : State) : Res State :=
  finishEr s n (s.er m) (pswLogic s.psw (s.er m))

/-- MOV ERn,#imm7 (R141). -/
def execMovErnImm7 (n : RegNo) (imm : BitVec 7) (s : State) : Res State :=
  finishEr s n (sext7 imm) (pswLogic s.psw (sext7 imm))

/-- ADD ERn,ERm (R142). -/
def execAddErnErm (n m : RegNo) (s : State) : Res State :=
  let x := addF (s.er n) (s.er m) false
  finishEr s n x.value (pswArith s.psw x)

/-- ADD ERn,#imm7 (R143). -/
def execAddErnImm7 (n : RegNo) (imm : BitVec 7) (s : State) : Res State :=
  let x := addF (s.er n) (sext7 imm) false
  finishEr s n x.value (pswArith s.psw x)

/-- CMP ERn,ERm (R144). -/
def execCmpErnErm (n m : RegNo) (s : State) : Res State :=
  finishPsw s (pswArith s.psw (subF (s.er n) (s.er m) false))

end Sys2Proof.Machine
end

