-- ==== Sys2Proof/Machine/BranchSwi.lean ====
section
/-! DEFINITION. Conditional branches, EXTBW, SWI, BRK, B and BL (spec/47_branch_swi.md). -/

namespace Sys2Proof.Machine

/-- A conditional branch (R320): to the target if the condition holds, else to the next
instruction. -/
def branchOn (k : Cond) (radr : Byte) (s : State) : Res State :=
  if k.holds s.psw then .next (s.jump (s.branchTarget radr)) else .next (s.advance 1)

/-- EXTBW of the word register `n` (R322): the upper byte filled with the sign of the lower. -/
def extendSign (n : RegNo) (s : State) : Res State :=
  finishR s (n + 1) (if (s.r n).msb then 0xFF#8 else 0x00#8) (pswLogic s.psw (s.r n))

/-- BGE, BNC Radr (R320, R321). -/
def execBge (radr : Byte) (s : State) : Res State := branchOn .ge radr s

/-- BLT, BCY Radr (R320, R321). -/
def execBlt (radr : Byte) (s : State) : Res State := branchOn .lt radr s

/-- BGT Radr (R320, R321). -/
def execBgt (radr : Byte) (s : State) : Res State := branchOn .gt radr s

/-- BLE Radr (R320, R321). -/
def execBle (radr : Byte) (s : State) : Res State := branchOn .le radr s

/-- BGES Radr (R320, R321). -/
def execBges (radr : Byte) (s : State) : Res State := branchOn .ges radr s

/-- BLTS Radr (R320, R321). -/
def execBlts (radr : Byte) (s : State) : Res State := branchOn .lts radr s

/-- BGTS Radr (R320, R321). -/
def execBgts (radr : Byte) (s : State) : Res State := branchOn .gts radr s

/-- BLES Radr (R320, R321). -/
def execBles (radr : Byte) (s : State) : Res State := branchOn .les radr s

/-- BNE, BNZ Radr (R320, R321). -/
def execBne (radr : Byte) (s : State) : Res State := branchOn .ne radr s

/-- BEQ, BZ Radr (R320, R321). -/
def execBeq (radr : Byte) (s : State) : Res State := branchOn .eq radr s

/-- BNV Radr (R320, R321). -/
def execBnv (radr : Byte) (s : State) : Res State := branchOn .nv radr s

/-- BOV Radr (R320, R321). -/
def execBov (radr : Byte) (s : State) : Res State := branchOn .ov radr s

/-- BPS Radr (R320, R321). -/
def execBps (radr : Byte) (s : State) : Res State := branchOn .ps radr s

/-- BNS Radr (R320, R321). -/
def execBns (radr : Byte) (s : State) : Res State := branchOn .ns radr s

/-- BAL Radr (R320, R321). -/
def execBal (radr : Byte) (s : State) : Res State := branchOn .al radr s

/-- EXTBW ER0 (R322). -/
def execExtbwEr0 (s : State) : Res State := extendSign 0#4 s

/-- EXTBW ER2 (R322). -/
def execExtbwEr2 (s : State) : Res State := extendSign 2#4 s

/-- EXTBW ER4 (R322). -/
def execExtbwEr4 (s : State) : Res State := extendSign 4#4 s

/-- EXTBW ER6 (R322). -/
def execExtbwEr6 (s : State) : Res State := extendSign 6#4 s

/-- EXTBW ER8 (R322). -/
def execExtbwEr8 (s : State) : Res State := extendSign 8#4 s

/-- EXTBW ER10 (R322). -/
def execExtbwEr10 (s : State) : Res State := extendSign 10#4 s

/-- EXTBW ER12 (R322). -/
def execExtbwEr12 (s : State) : Res State := extendSign 12#4 s

/-- EXTBW ER14 (R322). -/
def execExtbwEr14 (s : State) : Res State := extendSign 14#4 s

/-- SWI #snum (R323): exception entry at level 1 with the address of the next instruction (log 28). -/
def execSwi (snum : BitVec 6) (s : State) : Res State :=
  enterException { s with dsrPrefix := false } .one (s.nextPc 1)
    (0x0080#16 + 2#16 * snum.setWidth 16) true

/-- BRK (R324): the reset sequence at ELEVEL 2 and 3, else exception entry at level 2 (log 29). -/
def execBrk (s : State) : Res State :=
  if 2#2 ≤ elevel s.psw then systemReset s
  else enterException { s with dsrPrefix := false } .two (s.nextPc 1) 0x0004#16 false

/-- B Cadr (R325). -/
def execBCadr (g : Nibble) (cadr : Word) (s : State) : Res State :=
  .next ((s.setCodeSeg g).jump cadr)

/-- B ERn (R326). -/
def execBErn (n : RegNo) (s : State) : Res State := .next (s.jump (s.er n))

/-- BL Cadr (R327). -/
def execBlCadr (g : Nibble) (cadr : Word) (s : State) : Res State :=
  .next ((((s.setLr (s.nextPc 2)).setLinkSeg s.codeSeg).setCodeSeg g).jump cadr)

/-- BL ERn (R328). -/
def execBlErn (n : RegNo) (s : State) : Res State :=
  .next (((s.setLr (s.nextPc 1)).setLinkSeg s.codeSeg).jump (s.er n))

end Sys2Proof.Machine
end

