-- ==== Sys2Proof/Machine/ControlRegister.lean ====
section
/-! DEFINITION. The control register access instructions (spec/43_control_register.md). -/

namespace Sys2Proof.Machine

/-- An instruction naming ELR, ECSR or EPSW: `atZero` at ELEVEL 0, else `f` of the set ELEVEL selects,
if the product has it (R220). -/
def onBank (s : State) (atZero : Res State) (f : Bank → Res State) : Res State :=
  match s.bank with
  | none => atZero
  | some k => if s.hasBank k then f k else .refused .level3Absent

/-- MOV PSW with the value `v`: all eight bits at once; changing ELEVEL needs NOP as the next code word,
and MIE may not go from 1 to 0 (R227; spec/70_reset_and_hazards.md R421, R422; log 25). -/
def writePsw (v : Byte) (s : State) : Res State :=
  andThen
    (if elevel v = elevel s.psw then .next ()
    else andThen (s.codeRead16 s.codeSeg (s.nextPc 1)) fun w =>
      if w = 0xFE8F#16 then .next () else .refused .movPswWithoutNop) fun _ =>
  if getFlag s.psw .mie && !getFlag v .mie then .refused .movPswClearsMie else finishPsw s v

/-- ADD SP,#signed8 (R221). -/
def execAddSpSigned8 (imm : Byte) (s : State) : Res State :=
  .next ({ s with sp := s.sp + sext8 imm }.advance 1)

/-- MOV ECSR,Rm (R222): bits 3:0 of Rm (log 19). -/
def execMovEcsrRm (m : RegNo) (s : State) : Res State :=
  onBank s (.next ((s.setLinkSeg (loNibble (s.r m))).advance 1)) fun k =>
  .next ((s.setEcsr k (loNibble (s.r m))).advance 1)

/-- MOV ELR,ERm (R223). -/
def execMovElrErm (m : RegNo) (s : State) : Res State :=
  onBank s (.next ((s.setLr (s.er m)).advance 1)) fun k => .next ((s.setElr k (s.er m)).advance 1)

/-- MOV EPSW,Rm (R224): nothing at ELEVEL 0. -/
def execMovEpswRm (m : RegNo) (s : State) : Res State :=
  onBank s (.next (s.advance 1)) fun k => .next ((s.setEpsw k (s.r m)).advance 1)

/-- MOV ERn,ELR (R225). -/
def execMovErnElr (n : RegNo) (s : State) : Res State :=
  onBank s (finishEr s n s.lr s.psw) fun k => finishEr s n (s.elr k) s.psw

/-- MOV ERn,SP (R226). -/
def execMovErnSp (n : RegNo) (s : State) : Res State := finishEr s n s.sp s.psw

/-- MOV PSW,Rm (R227). -/
def execMovPswRm (m : RegNo) (s : State) : Res State := writePsw (s.r m) s

/-- MOV PSW,#unsigned8 (R228). -/
def execMovPswUnsigned8 (imm : Byte) (s : State) : Res State := writePsw imm s

/-- R[n] from a segment register holding `c`: bits 7:4 are a free value (R229; log 5). -/
def readSegInto (n : RegNo) (c : Nibble) (s : State) : Res State :=
  finishR { s with draws := s.draws + 1 } n (Config.freeNibble s.draws ++ c) s.psw

/-- MOV Rn,ECSR (R229). -/
def execMovRnEcsr (n : RegNo) (s : State) : Res State :=
  onBank s (readSegInto n s.linkSeg s) fun k => readSegInto n (s.ecsr k) s

/-- MOV Rn,EPSW (R230): nothing at ELEVEL 0. -/
def execMovRnEpsw (n : RegNo) (s : State) : Res State :=
  onBank s (.next (s.advance 1)) fun k => finishR s n (s.epsw k) s.psw

/-- MOV Rn,PSW (R231). -/
def execMovRnPsw (n : RegNo) (s : State) : Res State := finishR s n s.psw s.psw

/-- MOV SP,ERm (R232). -/
def execMovSpErm (m : RegNo) (s : State) : Res State := .next ({ s with sp := s.er m }.advance 1)

end Sys2Proof.Machine
end

