-- ==== Sys2Proof/Machine/Coprocessor.lean ====
section
/-! DEFINITION. The coprocessor transfer instructions, over a plain register file
(spec/45_coprocessor.md; log 31). -/

namespace Sys2Proof.Machine

/-- MOV CRn,Rm (R261). -/
def execMovCrnRm (n m : RegNo) (s : State) : Res State := .next ((s.setCr n (s.r m)).advance 1)

/-- MOV Rn,CRm (R262); no flag changes. -/
def execMovRnCrm (n m : RegNo) (s : State) : Res State := finishR s n (s.cr m) s.psw

/-- MOV CRn,[EA] (R263). -/
def execMovCrnEa (n : RegNo) (s : State) : Res State := loadCregs s n 1 s.ea

/-- MOV CRn,[EA+] (R264). -/
def execMovCrnEaInc (n : RegNo) (s : State) : Res State := loadCregs s n 1 (eaAfter s.ea 1)

/-- MOV CERn,[EA] (R265). -/
def execMovCernEa (n : RegNo) (s : State) : Res State := loadCregs s n 2 s.ea

/-- MOV CERn,[EA+] (R266). -/
def execMovCernEaInc (n : RegNo) (s : State) : Res State := loadCregs s n 2 (eaAfter s.ea 2)

/-- MOV CXRn,[EA] (R267). -/
def execMovCxrnEa (n : RegNo) (s : State) : Res State := loadCregs s n 4 s.ea

/-- MOV CXRn,[EA+] (R268). -/
def execMovCxrnEaInc (n : RegNo) (s : State) : Res State := loadCregs s n 4 (eaAfter s.ea 4)

/-- MOV CQRn,[EA] (R269). -/
def execMovCqrnEa (n : RegNo) (s : State) : Res State := loadCregs s n 8 s.ea

/-- MOV CQRn,[EA+] (R270). -/
def execMovCqrnEaInc (n : RegNo) (s : State) : Res State := loadCregs s n 8 (eaAfter s.ea 8)

/-- MOV [EA],CRm (R271). -/
def execMovEaCrm (m : RegNo) (s : State) : Res State := storeBytes s (s.crBytes m 1) s.ea s.ea 1

/-- MOV [EA+],CRm (R272). -/
def execMovEaIncCrm (m : RegNo) (s : State) : Res State :=
  storeBytes s (s.crBytes m 1) s.ea (eaAfter s.ea 1) 1

/-- MOV [EA],CERm (R273). -/
def execMovEaCerm (m : RegNo) (s : State) : Res State := storeBytes s (s.crBytes m 2) s.ea s.ea 1

/-- MOV [EA+],CERm (R274). -/
def execMovEaIncCerm (m : RegNo) (s : State) : Res State :=
  storeBytes s (s.crBytes m 2) s.ea (eaAfter s.ea 2) 1

/-- MOV [EA],CXRm (R275). -/
def execMovEaCxrm (m : RegNo) (s : State) : Res State := storeBytes s (s.crBytes m 4) s.ea s.ea 1

/-- MOV [EA+],CXRm (R276). -/
def execMovEaIncCxrm (m : RegNo) (s : State) : Res State :=
  storeBytes s (s.crBytes m 4) s.ea (eaAfter s.ea 4) 1

/-- MOV [EA],CQRm (R277). -/
def execMovEaCqrm (m : RegNo) (s : State) : Res State := storeBytes s (s.crBytes m 8) s.ea s.ea 1

/-- MOV [EA+],CQRm (R278). -/
def execMovEaIncCqrm (m : RegNo) (s : State) : Res State :=
  storeBytes s (s.crBytes m 8) s.ea (eaAfter s.ea 8) 1

end Sys2Proof.Machine
end

