-- ==== Sys2Proof/Machine/EaAluBitPsw.lean ====
section
/-! DEFINITION. LEA, DAA, DAS, NEG, the bit instructions and the PSW instructions
(spec/46_ea_alu_bit_psw.md). -/

namespace Sys2Proof.Machine

/-- LEA [ERm] (R290). -/
def execLeaErm (m : RegNo) (s : State) : Res State := .next ({ s with ea := s.er m }.advance 1)

/-- LEA Disp16[ERm] (R291). -/
def execLeaDisp16Erm (m : RegNo) (disp : Word) (s : State) : Res State :=
  .next ({ s with ea := s.addrDisp16 m disp }.advance 2)

/-- LEA Dadr (R292). -/
def execLeaDadr (dadr : Word) (s : State) : Res State := .next ({ s with ea := dadr }.advance 2)

/-- DAA Rn (R293). -/
def execDaaRn (n : RegNo) (s : State) : Res State :=
  let x := daaF (s.r n) (getFlag s.psw .c) (getFlag s.psw .hc)
  finishR s n x.value (pswDecimal s.psw x)

/-- DAS Rn (R294). -/
def execDasRn (n : RegNo) (s : State) : Res State :=
  let x := dasF (s.r n) (getFlag s.psw .c) (getFlag s.psw .hc)
  finishR s n x.value (pswDecimal s.psw x)

/-- NEG Rn (R295). -/
def execNegRn (n : RegNo) (s : State) : Res State :=
  let x := subF 0x00#8 (s.r n) false
  finishR s n x.value (pswArith s.psw x)

/-- Z becomes the inverse of bit `b` of `v`. -/
def pswBit (psw : Byte) (v : Byte) (b : BitVec 3) : Byte := setFlag psw .z (!v.getLsbD b.toNat)

/-- `v` with bit `b` set. -/
def withBit (v : Byte) (b : BitVec 3) : Byte := v ||| (0x01#8 <<< b.toNat)

/-- `v` with bit `b` clear. -/
def withoutBit (v : Byte) (b : BitVec 3) : Byte := v &&& ~~~(0x01#8 <<< b.toNat)

/-- SB Rn.bit_offset (R296). -/
def execSbRnBit (n : RegNo) (bit : BitVec 3) (s : State) : Res State :=
  finishR s n (withBit (s.r n) bit) (pswBit s.psw (s.r n) bit)

/-- SB Dbitadr (R297). -/
def execSbDbitadr (bit : BitVec 3) (dadr : Word) (s : State) : Res State :=
  modifyByte s dadr (fun v => withBit v bit) (fun v => pswBit s.psw v bit) 2

/-- RB Rn.bit_offset (R298). -/
def execRbRnBit (n : RegNo) (bit : BitVec 3) (s : State) : Res State :=
  finishR s n (withoutBit (s.r n) bit) (pswBit s.psw (s.r n) bit)

/-- RB Dbitadr (R299). -/
def execRbDbitadr (bit : BitVec 3) (dadr : Word) (s : State) : Res State :=
  modifyByte s dadr (fun v => withoutBit v bit) (fun v => pswBit s.psw v bit) 2

/-- TB Rn.bit_offset (R300). -/
def execTbRnBit (n : RegNo) (bit : BitVec 3) (s : State) : Res State :=
  finishPsw s (pswBit s.psw (s.r n) bit)

/-- TB Dbitadr (R301): a read and no write. -/
def execTbDbitadr (bit : BitVec 3) (dadr : Word) (s : State) : Res State :=
  andThen (s.readByte s.dseg dadr) fun v =>
  .next ({ s.afterRead s.dseg dadr with psw := pswBit s.psw v bit }.advance 2)

/-- EI (R302): MIE at once; accepting a maskable request is optional at the two boundaries that
follow (spec/70_reset_and_hazards.md R420; log 13). -/
def execEi (s : State) : Res State :=
  .next ({ s with psw := setFlag s.psw .mie true, eiWindow := 2 }.advance 1)

/-- DI (R303). -/
def execDi (s : State) : Res State := finishPsw s (setFlag s.psw .mie false)

/-- SC (R304). -/
def execSc (s : State) : Res State := finishPsw s (setFlag s.psw .c true)

/-- RC (R305). -/
def execRc (s : State) : Res State := finishPsw s (setFlag s.psw .c false)

/-- CPLC (R306). -/
def execCplc (s : State) : Res State := finishPsw s (setFlag s.psw .c (!getFlag s.psw .c))

end Sys2Proof.Machine
end

