-- ==== Sys2Proof/Machine/LoadStore.lean ====
section
/-! DEFINITION. The DSR prefix words, L and ST (spec/42_load_store.md). -/

namespace Sys2Proof.Machine

/-- A DSR prefix word that leaves `dsr` in DSR: both latches set; right after another prefix word
the spec refuses it (R165 to R168; log 26). -/
def finishPrefix (s : State) (dsr : Byte) : Res State :=
  if s.dsrPrefix then .refused .prefixAfterPrefix
  else .next { s with dsr := dsr, dsrPrefix := true, intBlock := true, pc := s.nextPc 1 }

/-- DSR prefix `pseg_addr:` (R165). -/
def execDsrPrefixSeg (imm : Byte) (s : State) : Res State := finishPrefix s imm

/-- DSR prefix `Rd:` (R166). -/
def execDsrPrefixRd (d : RegNo) (s : State) : Res State := finishPrefix s (s.r d)

/-- DSR prefix `DSR:` (R167). -/
def execDsrPrefixDsr (s : State) : Res State := finishPrefix s s.dsr

/-- L ERn,[EA] (R175). -/
def execLErnEa (n : RegNo) (s : State) : Res State := loadRegs s n 2 s.ea s.ea 1

/-- L ERn,[EA+] (R176). -/
def execLErnEaInc (n : RegNo) (s : State) : Res State := loadRegs s n 2 s.ea (eaAfter s.ea 2) 1

/-- L ERn,[ERm] (R177). -/
def execLErnErm (n m : RegNo) (s : State) : Res State := loadRegs s n 2 (s.er m) s.ea 1

/-- L ERn,Disp16[ERm] (R178). -/
def execLErnDisp16Erm (n m : RegNo) (disp : Word) (s : State) : Res State :=
  loadRegs s n 2 (s.addrDisp16 m disp) s.ea 2

/-- L ERn,Disp6[BP] (R179). -/
def execLErnDisp6Bp (n : RegNo) (disp : BitVec 6) (s : State) : Res State :=
  loadRegs s n 2 (s.addrDisp6 bp disp) s.ea 1

/-- L ERn,Disp6[FP] (R180). -/
def execLErnDisp6Fp (n : RegNo) (disp : BitVec 6) (s : State) : Res State :=
  loadRegs s n 2 (s.addrDisp6 fp disp) s.ea 1

/-- L ERn,Dadr (R181). -/
def execLErnDadr (n : RegNo) (dadr : Word) (s : State) : Res State := loadRegs s n 2 dadr s.ea 2

/-- L Rn,[EA] (R182). -/
def execLRnEa (n : RegNo) (s : State) : Res State := loadRegs s n 1 s.ea s.ea 1

/-- L Rn,[EA+] (R183). -/
def execLRnEaInc (n : RegNo) (s : State) : Res State := loadRegs s n 1 s.ea (eaAfter s.ea 1) 1

/-- L Rn,[ERm] (R184). -/
def execLRnErm (n m : RegNo) (s : State) : Res State := loadRegs s n 1 (s.er m) s.ea 1

/-- L Rn,Disp16[ERm] (R185). -/
def execLRnDisp16Erm (n m : RegNo) (disp : Word) (s : State) : Res State :=
  loadRegs s n 1 (s.addrDisp16 m disp) s.ea 2

/-- L Rn,Disp6[BP] (R186). -/
def execLRnDisp6Bp (n : RegNo) (disp : BitVec 6) (s : State) : Res State :=
  loadRegs s n 1 (s.addrDisp6 bp disp) s.ea 1

/-- L Rn,Disp6[FP] (R187). -/
def execLRnDisp6Fp (n : RegNo) (disp : BitVec 6) (s : State) : Res State :=
  loadRegs s n 1 (s.addrDisp6 fp disp) s.ea 1

/-- L Rn,Dadr (R188). -/
def execLRnDadr (n : RegNo) (dadr : Word) (s : State) : Res State := loadRegs s n 1 dadr s.ea 2

/-- L XRn,[EA] (R189). -/
def execLXrnEa (n : RegNo) (s : State) : Res State := loadRegs s n 4 s.ea s.ea 1

/-- L XRn,[EA+] (R190). -/
def execLXrnEaInc (n : RegNo) (s : State) : Res State := loadRegs s n 4 s.ea (eaAfter s.ea 4) 1

/-- L QRn,[EA] (R191). -/
def execLQrnEa (n : RegNo) (s : State) : Res State := loadRegs s n 8 s.ea s.ea 1

/-- L QRn,[EA+] (R192). -/
def execLQrnEaInc (n : RegNo) (s : State) : Res State := loadRegs s n 8 s.ea (eaAfter s.ea 8) 1

/-- ST ERn,[EA] (R193). -/
def execStErnEa (n : RegNo) (s : State) : Res State := storeBytes s (s.rBytes n 2) s.ea s.ea 1

/-- ST ERn,[EA+] (R194). -/
def execStErnEaInc (n : RegNo) (s : State) : Res State :=
  storeBytes s (s.rBytes n 2) s.ea (eaAfter s.ea 2) 1

/-- ST ERn,[ERm] (R195). -/
def execStErnErm (n m : RegNo) (s : State) : Res State :=
  storeBytes s (s.rBytes n 2) (s.er m) s.ea 1

/-- ST ERn,Disp16[ERm] (R196). -/
def execStErnDisp16Erm (n m : RegNo) (disp : Word) (s : State) : Res State :=
  storeBytes s (s.rBytes n 2) (s.addrDisp16 m disp) s.ea 2

/-- ST ERn,Disp6[BP] (R197). -/
def execStErnDisp6Bp (n : RegNo) (disp : BitVec 6) (s : State) : Res State :=
  storeBytes s (s.rBytes n 2) (s.addrDisp6 bp disp) s.ea 1

/-- ST ERn,Disp6[FP] (R198). -/
def execStErnDisp6Fp (n : RegNo) (disp : BitVec 6) (s : State) : Res State :=
  storeBytes s (s.rBytes n 2) (s.addrDisp6 fp disp) s.ea 1

/-- ST ERn,Dadr (R199). -/
def execStErnDadr (n : RegNo) (dadr : Word) (s : State) : Res State :=
  storeBytes s (s.rBytes n 2) dadr s.ea 2

/-- ST Rn,[EA] (R200). -/
def execStRnEa (n : RegNo) (s : State) : Res State := storeBytes s (s.rBytes n 1) s.ea s.ea 1

/-- ST Rn,[EA+] (R201). -/
def execStRnEaInc (n : RegNo) (s : State) : Res State :=
  storeBytes s (s.rBytes n 1) s.ea (eaAfter s.ea 1) 1

/-- ST Rn,[ERm] (R202). -/
def execStRnErm (n m : RegNo) (s : State) : Res State := storeBytes s (s.rBytes n 1) (s.er m) s.ea 1

/-- ST Rn,Disp16[ERm] (R203). -/
def execStRnDisp16Erm (n m : RegNo) (disp : Word) (s : State) : Res State :=
  storeBytes s (s.rBytes n 1) (s.addrDisp16 m disp) s.ea 2

/-- ST Rn,Disp6[BP] (R204). -/
def execStRnDisp6Bp (n : RegNo) (disp : BitVec 6) (s : State) : Res State :=
  storeBytes s (s.rBytes n 1) (s.addrDisp6 bp disp) s.ea 1

/-- ST Rn,Disp6[FP] (R205). -/
def execStRnDisp6Fp (n : RegNo) (disp : BitVec 6) (s : State) : Res State :=
  storeBytes s (s.rBytes n 1) (s.addrDisp6 fp disp) s.ea 1

/-- ST Rn,Dadr (R206). -/
def execStRnDadr (n : RegNo) (dadr : Word) (s : State) : Res State :=
  storeBytes s (s.rBytes n 1) dadr s.ea 2

/-- ST XRn,[EA] (R207). -/
def execStXrnEa (n : RegNo) (s : State) : Res State := storeBytes s (s.rBytes n 4) s.ea s.ea 1

/-- ST XRn,[EA+] (R208). -/
def execStXrnEaInc (n : RegNo) (s : State) : Res State :=
  storeBytes s (s.rBytes n 4) s.ea (eaAfter s.ea 4) 1

/-- ST QRn,[EA] (R209). -/
def execStQrnEa (n : RegNo) (s : State) : Res State := storeBytes s (s.rBytes n 8) s.ea s.ea 1

/-- ST QRn,[EA+] (R210). -/
def execStQrnEaInc (n : RegNo) (s : State) : Res State :=
  storeBytes s (s.rBytes n 8) s.ea (eaAfter s.ea 8) 1

end Sys2Proof.Machine
end

