-- ==== Sys2Proof/Machine/MulDivMisc.lean ====
section
/-! DEFINITION. MUL, DIV, INC, DEC, RT, RTI and NOP (spec/48_muldiv_misc.md). -/

namespace Sys2Proof.Machine

/-- MUL ERn,Rm (R350), unsigned (log 22). -/
def execMulErnRm (n m : RegNo) (s : State) : Res State :=
  let p := BitVec.ofNat 16 ((s.r n).toNat * (s.r m).toNat)
  finishEr s n p (setFlag s.psw .z (p == 0))

/-- Z after a division of `a` with quotient `q`: free where the two readings of the page differ
(R351; log 23). -/
def divZ (free : Bool) (a q : Nat) : Bool := if a = 0 then true else if q = 0 then free else false

/-- DIV ERn,Rm (R351), unsigned (log 22, log 23). -/
def execDivErnRm (n m : RegNo) (s : State) : Res State :=
  if m = n ∨ m = n + 1 then .refused .divOverlap
  else
    let a := (s.er n).toNat
    let d := (s.r m).toNat
    let free := Config.freeBit s.draws
    let t := { s with draws := s.draws + 1 }
    if d = 0 then
      finishR (t.setEr n (Config.freeWord s.draws)) m (Config.freeByte s.draws)
        (setFlag (setFlag s.psw .c true) .z free)
    else
      finishR (t.setEr n (BitVec.ofNat 16 (a / d))) m (BitVec.ofNat 8 (a % d))
        (setFlag (setFlag s.psw .c false) .z (divZ free a (a / d)))

/-- INC [EA] (R352). -/
def execIncEa (s : State) : Res State :=
  modifyByte s s.ea (fun v => (addF v 0x01#8 false).value)
    (fun v => pswArithKeepC s.psw (addF v 0x01#8 false)) 1

/-- DEC [EA] (R353). -/
def execDecEa (s : State) : Res State :=
  modifyByte s s.ea (fun v => (subF v 0x01#8 false).value)
    (fun v => pswArithKeepC s.psw (subF v 0x01#8 false)) 1

/-- RT (R354). -/
def execRt (s : State) : Res State := .next ((s.setCodeSeg s.linkSeg).jump s.lr)

/-- RTI (R355). -/
def execRti (s : State) : Res State := returnFromException s

/-- NOP (R356). -/
def execNop (s : State) : Res State := .next (s.advance 1)

end Sys2Proof.Machine
end

