-- ==== Sys2Proof/Machine/PushPop.lean ====
section
/-! DEFINITION. PUSH and POP (spec/44_push_pop.md). -/

namespace Sys2Proof.Machine

/-- PUSH of a whole even number of register bytes (R243 to R245). -/
def pushRegs (n : RegNo) (k : Nat) (s : State) : Res State :=
  andThen (stackReady s) fun t => andThen (pushBytes t (t.rBytes n k)) fun u => .next (u.advance 1)

/-- POP into `k` register bytes, SP moved up by `size`; no flag changes (R252 to R255). -/
def popRegs (n : RegNo) (k : Nat) (size : Word) (s : State) : Res State :=
  andThen (stackReady s) fun t =>
  andThen (t.memRead 0x00#8 t.sp k) fun r =>
  .next (((r.2.popped size).setRBytes n r.1).advance 1)

/-- PUSH Rn (R242). -/
def execPushRn (n : RegNo) (s : State) : Res State :=
  andThen (stackReady s) fun t => andThen (pushByte t (t.r n)) fun u => .next (u.advance 1)

/-- PUSH ERn (R243). -/
def execPushErn (n : RegNo) (s : State) : Res State := pushRegs n 2 s

/-- PUSH XRn (R244). -/
def execPushXrn (n : RegNo) (s : State) : Res State := pushRegs n 4 s

/-- PUSH QRn (R245). -/
def execPushQrn (n : RegNo) (s : State) : Res State := pushRegs n 8 s

/-- PUSH EA (R246). -/
def execPushEa (s : State) : Res State := pushList false false false true s

/-- PUSH ELR (R246). -/
def execPushElr (s : State) : Res State := pushList false false true false s

/-- PUSH ELR,EA (R246). -/
def execPushElrEa (s : State) : Res State := pushList false false true true s

/-- PUSH EPSW (R246). -/
def execPushEpsw (s : State) : Res State := pushList false true false false s

/-- PUSH EPSW,EA (R246). -/
def execPushEpswEa (s : State) : Res State := pushList false true false true s

/-- PUSH ELR,EPSW (R246). -/
def execPushElrEpsw (s : State) : Res State := pushList false true true false s

/-- PUSH ELR,EPSW,EA (R246). -/
def execPushElrEpswEa (s : State) : Res State := pushList false true true true s

/-- PUSH LR (R246). -/
def execPushLr (s : State) : Res State := pushList true false false false s

/-- PUSH LR,EA (R246). -/
def execPushLrEa (s : State) : Res State := pushList true false false true s

/-- PUSH ELR,LR (R246). -/
def execPushElrLr (s : State) : Res State := pushList true false true false s

/-- PUSH ELR,LR,EA (R246). -/
def execPushElrLrEa (s : State) : Res State := pushList true false true true s

/-- PUSH EPSW,LR (R246). -/
def execPushEpswLr (s : State) : Res State := pushList true true false false s

/-- PUSH EPSW,LR,EA (R246). -/
def execPushEpswLrEa (s : State) : Res State := pushList true true false true s

/-- PUSH ELR,EPSW,LR (R246). -/
def execPushElrEpswLr (s : State) : Res State := pushList true true true false s

/-- PUSH ELR,EPSW,LR,EA (R246). -/
def execPushElrEpswLrEa (s : State) : Res State := pushList true true true true s

/-- POP EA (R251). -/
def execPopEa (s : State) : Res State := popList false false false true s

/-- POP PC (R251). -/
def execPopPc (s : State) : Res State := popList false false true false s

/-- POP EA,PC (R251). -/
def execPopEaPc (s : State) : Res State := popList false false true true s

/-- POP PSW (R251). -/
def execPopPsw (s : State) : Res State := popList false true false false s

/-- POP EA,PSW (R251). -/
def execPopEaPsw (s : State) : Res State := popList false true false true s

/-- POP PSW,PC (R251). -/
def execPopPswPc (s : State) : Res State := popList false true true false s

/-- POP EA,PSW,PC (R251). -/
def execPopEaPswPc (s : State) : Res State := popList false true true true s

/-- POP LR (R251). -/
def execPopLr (s : State) : Res State := popList true false false false s

/-- POP EA,LR (R251). -/
def execPopEaLr (s : State) : Res State := popList true false false true s

/-- POP LR,PC (R251). -/
def execPopLrPc (s : State) : Res State := popList true false true false s

/-- POP EA,LR,PC (R251). -/
def execPopEaLrPc (s : State) : Res State := popList true false true true s

/-- POP LR,PSW (R251). -/
def execPopLrPsw (s : State) : Res State := popList true true false false s

/-- POP EA,LR,PSW (R251). -/
def execPopEaLrPsw (s : State) : Res State := popList true true false true s

/-- POP LR,PSW,PC (R251). -/
def execPopLrPswPc (s : State) : Res State := popList true true true false s

/-- POP EA,LR,PSW,PC (R251). -/
def execPopEaLrPswPc (s : State) : Res State := popList true true true true s

/-- POP Rn (R252). -/
def execPopRn (n : RegNo) (s : State) : Res State := popRegs n 1 2#16 s

/-- POP ERn (R253). -/
def execPopErn (n : RegNo) (s : State) : Res State := popRegs n 2 2#16 s

/-- POP XRn (R254). -/
def execPopXrn (n : RegNo) (s : State) : Res State := popRegs n 4 4#16 s

/-- POP QRn (R255). -/
def execPopQrn (n : RegNo) (s : State) : Res State := popRegs n 8 8#16 s

end Sys2Proof.Machine
end

