-- ==== Sys2Proof/Machine/Shift.lean ====
section
/-! DEFINITION. The shift instructions (spec/41_shift.md). -/

namespace Sys2Proof.Machine

/-- The shift count of a register form: its lowest three bits (R150). -/
def State.shiftCount (s : State) (m : RegNo) : Nat := (s.r m).toNat % 8

/-- The end of a shift by `k`: `value` to R[n] and `last`, the last bit shifted out, to C; with `k = 0`
neither changes (R150). -/
def finishShift (s : State) (n : RegNo) (k : Nat) (value : Byte) (last : Bool) : Res State :=
  if k = 0 then .next (s.advance 1) else finishR s n value (setFlag s.psw .c last)

/-- Shift R[n] left by `k`, zeros in (R151). -/
def shiftLeft (n : RegNo) (k : Nat) (s : State) : Res State :=
  finishShift s n k (s.r n <<< k) ((s.r n).getLsbD (8 - k))

/-- Shift R[n] left by `k`, the bits of the register below in (R153). -/
def shiftLeftContinued (n : RegNo) (k : Nat) (s : State) : Res State :=
  let v := mkWord (s.r n) (s.r (n - 1))
  finishShift s n k (hiByte (v <<< k)) (v.getLsbD (16 - k))

/-- Shift R[n] right by `k`, its sign in (R155). -/
def shiftRightArith (n : RegNo) (k : Nat) (s : State) : Res State :=
  finishShift s n k ((s.r n).sshiftRight k) ((s.r n).getLsbD (k - 1))

/-- Shift R[n] right by `k`, zeros in (R157). -/
def shiftRight (n : RegNo) (k : Nat) (s : State) : Res State :=
  finishShift s n k (s.r n >>> k) ((s.r n).getLsbD (k - 1))

/-- Shift R[n] right by `k`, the bits of the register above in (R159). -/
def shiftRightContinued (n : RegNo) (k : Nat) (s : State) : Res State :=
  let v := mkWord (s.r (n + 1)) (s.r n)
  finishShift s n k (loByte (v >>> k)) (v.getLsbD (k - 1))

/-- SLL Rn,Rm (R151). -/
def execSllRnRm (n m : RegNo) (s : State) : Res State := shiftLeft n (s.shiftCount m) s

/-- SLL Rn,#width (R152). -/
def execSllRnWidth (n : RegNo) (width : BitVec 3) (s : State) : Res State :=
  shiftLeft n width.toNat s

/-- SLLC Rn,Rm (R153). -/
def execSllcRnRm (n m : RegNo) (s : State) : Res State := shiftLeftContinued n (s.shiftCount m) s

/-- SLLC Rn,#width (R154). -/
def execSllcRnWidth (n : RegNo) (width : BitVec 3) (s : State) : Res State :=
  shiftLeftContinued n width.toNat s

/-- SRA Rn,Rm (R155). -/
def execSraRnRm (n m : RegNo) (s : State) : Res State := shiftRightArith n (s.shiftCount m) s

/-- SRA Rn,#width (R156). -/
def execSraRnWidth (n : RegNo) (width : BitVec 3) (s : State) : Res State :=
  shiftRightArith n width.toNat s

/-- SRL Rn,Rm (R157). -/
def execSrlRnRm (n m : RegNo) (s : State) : Res State := shiftRight n (s.shiftCount m) s

/-- SRL Rn,#width (R158). -/
def execSrlRnWidth (n : RegNo) (width : BitVec 3) (s : State) : Res State :=
  shiftRight n width.toNat s

/-- SRLC Rn,Rm (R159). -/
def execSrlcRnRm (n m : RegNo) (s : State) : Res State := shiftRightContinued n (s.shiftCount m) s

/-- SRLC Rn,#width (R160). -/
def execSrlcRnWidth (n : RegNo) (width : BitVec 3) (s : State) : Res State :=
  shiftRightContinued n width.toNat s

end Sys2Proof.Machine
end

