-- ==== Sys2Proof/Machine/Dispatch.lean ====
section
/-! DEFINITION. The meaning of each instruction, one arm per constructor of Instr. -/

namespace Sys2Proof.Machine

def exec (i : Instr) (s : State) : Host.Outcome State Fault Refusal :=
  match i with
  | .addRnRm n m => Sys2Proof.Machine.execAddRnRm n m s
  | .addRnImm8 n imm => Sys2Proof.Machine.execAddRnImm8 n imm s
  | .movRnRm n m => Sys2Proof.Machine.execMovRnRm n m s
  | .movRnImm8 n imm => Sys2Proof.Machine.execMovRnImm8 n imm s
  | .addcRnRm n m => Sys2Proof.Machine.execAddcRnRm n m s
  | .addcRnImm8 n imm => Sys2Proof.Machine.execAddcRnImm8 n imm s
  | .cmpRnRm n m => Sys2Proof.Machine.execCmpRnRm n m s
  | .cmpRnImm8 n imm => Sys2Proof.Machine.execCmpRnImm8 n imm s
  | .cmpcRnRm n m => Sys2Proof.Machine.execCmpcRnRm n m s
  | .cmpcRnImm8 n imm => Sys2Proof.Machine.execCmpcRnImm8 n imm s
  | .andRnRm n m => Sys2Proof.Machine.execAndRnRm n m s
  | .andRnImm8 n imm => Sys2Proof.Machine.execAndRnImm8 n imm s
  | .orRnRm n m => Sys2Proof.Machine.execOrRnRm n m s
  | .orRnImm8 n imm => Sys2Proof.Machine.execOrRnImm8 n imm s
  | .xorRnRm n m => Sys2Proof.Machine.execXorRnRm n m s
  | .xorRnImm8 n imm => Sys2Proof.Machine.execXorRnImm8 n imm s
  | .subRnRm n m => Sys2Proof.Machine.execSubRnRm n m s
  | .subcRnRm n m => Sys2Proof.Machine.execSubcRnRm n m s
  | .movErnErm n m => Sys2Proof.Machine.execMovErnErm n m s
  | .movErnImm7 n imm => Sys2Proof.Machine.execMovErnImm7 n imm s
  | .addErnErm n m => Sys2Proof.Machine.execAddErnErm n m s
  | .addErnImm7 n imm => Sys2Proof.Machine.execAddErnImm7 n imm s
  | .cmpErnErm n m => Sys2Proof.Machine.execCmpErnErm n m s
  | .sllRnRm n m => Sys2Proof.Machine.execSllRnRm n m s
  | .sllRnWidth n width => Sys2Proof.Machine.execSllRnWidth n width s
  | .sllcRnRm n m => Sys2Proof.Machine.execSllcRnRm n m s
  | .sllcRnWidth n width => Sys2Proof.Machine.execSllcRnWidth n width s
  | .sraRnRm n m => Sys2Proof.Machine.execSraRnRm n m s
  | .sraRnWidth n width => Sys2Proof.Machine.execSraRnWidth n width s
  | .srlRnRm n m => Sys2Proof.Machine.execSrlRnRm n m s
  | .srlRnWidth n width => Sys2Proof.Machine.execSrlRnWidth n width s
  | .srlcRnRm n m => Sys2Proof.Machine.execSrlcRnRm n m s
  | .srlcRnWidth n width => Sys2Proof.Machine.execSrlcRnWidth n width s
  | .dsrPrefixSeg imm => Sys2Proof.Machine.execDsrPrefixSeg imm s
  | .dsrPrefixRd d => Sys2Proof.Machine.execDsrPrefixRd d s
  | .dsrPrefixDsr => Sys2Proof.Machine.execDsrPrefixDsr s
  | .lErnEa n => Sys2Proof.Machine.execLErnEa n s
  | .lErnEaInc n => Sys2Proof.Machine.execLErnEaInc n s
  | .lErnErm n m => Sys2Proof.Machine.execLErnErm n m s
  | .lErnDisp16Erm n m disp => Sys2Proof.Machine.execLErnDisp16Erm n m disp s
  | .lErnDisp6Bp n disp => Sys2Proof.Machine.execLErnDisp6Bp n disp s
  | .lErnDisp6Fp n disp => Sys2Proof.Machine.execLErnDisp6Fp n disp s
  | .lErnDadr n dadr => Sys2Proof.Machine.execLErnDadr n dadr s
  | .lRnEa n => Sys2Proof.Machine.execLRnEa n s
  | .lRnEaInc n => Sys2Proof.Machine.execLRnEaInc n s
  | .lRnErm n m => Sys2Proof.Machine.execLRnErm n m s
  | .lRnDisp16Erm n m disp => Sys2Proof.Machine.execLRnDisp16Erm n m disp s
  | .lRnDisp6Bp n disp => Sys2Proof.Machine.execLRnDisp6Bp n disp s
  | .lRnDisp6Fp n disp => Sys2Proof.Machine.execLRnDisp6Fp n disp s
  | .lRnDadr n dadr => Sys2Proof.Machine.execLRnDadr n dadr s
  | .lXrnEa n => Sys2Proof.Machine.execLXrnEa n s
  | .lXrnEaInc n => Sys2Proof.Machine.execLXrnEaInc n s
  | .lQrnEa n => Sys2Proof.Machine.execLQrnEa n s
  | .lQrnEaInc n => Sys2Proof.Machine.execLQrnEaInc n s
  | .stErnEa n => Sys2Proof.Machine.execStErnEa n s
  | .stErnEaInc n => Sys2Proof.Machine.execStErnEaInc n s
  | .stErnErm n m => Sys2Proof.Machine.execStErnErm n m s
  | .stErnDisp16Erm n m disp => Sys2Proof.Machine.execStErnDisp16Erm n m disp s
  | .stErnDisp6Bp n disp => Sys2Proof.Machine.execStErnDisp6Bp n disp s
  | .stErnDisp6Fp n disp => Sys2Proof.Machine.execStErnDisp6Fp n disp s
  | .stErnDadr n dadr => Sys2Proof.Machine.execStErnDadr n dadr s
  | .stRnEa n => Sys2Proof.Machine.execStRnEa n s
  | .stRnEaInc n => Sys2Proof.Machine.execStRnEaInc n s
  | .stRnErm n m => Sys2Proof.Machine.execStRnErm n m s
  | .stRnDisp16Erm n m disp => Sys2Proof.Machine.execStRnDisp16Erm n m disp s
  | .stRnDisp6Bp n disp => Sys2Proof.Machine.execStRnDisp6Bp n disp s
  | .stRnDisp6Fp n disp => Sys2Proof.Machine.execStRnDisp6Fp n disp s
  | .stRnDadr n dadr => Sys2Proof.Machine.execStRnDadr n dadr s
  | .stXrnEa n => Sys2Proof.Machine.execStXrnEa n s
  | .stXrnEaInc n => Sys2Proof.Machine.execStXrnEaInc n s
  | .stQrnEa n => Sys2Proof.Machine.execStQrnEa n s
  | .stQrnEaInc n => Sys2Proof.Machine.execStQrnEaInc n s
  | .addSpSigned8 imm => Sys2Proof.Machine.execAddSpSigned8 imm s
  | .movEcsrRm m => Sys2Proof.Machine.execMovEcsrRm m s
  | .movElrErm m => Sys2Proof.Machine.execMovElrErm m s
  | .movEpswRm m => Sys2Proof.Machine.execMovEpswRm m s
  | .movErnElr n => Sys2Proof.Machine.execMovErnElr n s
  | .movErnSp n => Sys2Proof.Machine.execMovErnSp n s
  | .movPswRm m => Sys2Proof.Machine.execMovPswRm m s
  | .movPswUnsigned8 imm => Sys2Proof.Machine.execMovPswUnsigned8 imm s
  | .movRnEcsr n => Sys2Proof.Machine.execMovRnEcsr n s
  | .movRnEpsw n => Sys2Proof.Machine.execMovRnEpsw n s
  | .movRnPsw n => Sys2Proof.Machine.execMovRnPsw n s
  | .movSpErm m => Sys2Proof.Machine.execMovSpErm m s
  | .pushRn n => Sys2Proof.Machine.execPushRn n s
  | .pushErn n => Sys2Proof.Machine.execPushErn n s
  | .pushXrn n => Sys2Proof.Machine.execPushXrn n s
  | .pushQrn n => Sys2Proof.Machine.execPushQrn n s
  | .pushEa => Sys2Proof.Machine.execPushEa s
  | .pushElr => Sys2Proof.Machine.execPushElr s
  | .pushElrEa => Sys2Proof.Machine.execPushElrEa s
  | .pushEpsw => Sys2Proof.Machine.execPushEpsw s
  | .pushEpswEa => Sys2Proof.Machine.execPushEpswEa s
  | .pushElrEpsw => Sys2Proof.Machine.execPushElrEpsw s
  | .pushElrEpswEa => Sys2Proof.Machine.execPushElrEpswEa s
  | .pushLr => Sys2Proof.Machine.execPushLr s
  | .pushLrEa => Sys2Proof.Machine.execPushLrEa s
  | .pushElrLr => Sys2Proof.Machine.execPushElrLr s
  | .pushElrLrEa => Sys2Proof.Machine.execPushElrLrEa s
  | .pushEpswLr => Sys2Proof.Machine.execPushEpswLr s
  | .pushEpswLrEa => Sys2Proof.Machine.execPushEpswLrEa s
  | .pushElrEpswLr => Sys2Proof.Machine.execPushElrEpswLr s
  | .pushElrEpswLrEa => Sys2Proof.Machine.execPushElrEpswLrEa s
  | .popEa => Sys2Proof.Machine.execPopEa s
  | .popPc => Sys2Proof.Machine.execPopPc s
  | .popEaPc => Sys2Proof.Machine.execPopEaPc s
  | .popPsw => Sys2Proof.Machine.execPopPsw s
  | .popEaPsw => Sys2Proof.Machine.execPopEaPsw s
  | .popPswPc => Sys2Proof.Machine.execPopPswPc s
  | .popEaPswPc => Sys2Proof.Machine.execPopEaPswPc s
  | .popLr => Sys2Proof.Machine.execPopLr s
  | .popEaLr => Sys2Proof.Machine.execPopEaLr s
  | .popLrPc => Sys2Proof.Machine.execPopLrPc s
  | .popEaLrPc => Sys2Proof.Machine.execPopEaLrPc s
  | .popLrPsw => Sys2Proof.Machine.execPopLrPsw s
  | .popEaLrPsw => Sys2Proof.Machine.execPopEaLrPsw s
  | .popLrPswPc => Sys2Proof.Machine.execPopLrPswPc s
  | .popEaLrPswPc => Sys2Proof.Machine.execPopEaLrPswPc s
  | .popRn n => Sys2Proof.Machine.execPopRn n s
  | .popErn n => Sys2Proof.Machine.execPopErn n s
  | .popXrn n => Sys2Proof.Machine.execPopXrn n s
  | .popQrn n => Sys2Proof.Machine.execPopQrn n s
  | .movCrnRm n m => Sys2Proof.Machine.execMovCrnRm n m s
  | .movRnCrm n m => Sys2Proof.Machine.execMovRnCrm n m s
  | .movCrnEa n => Sys2Proof.Machine.execMovCrnEa n s
  | .movCrnEaInc n => Sys2Proof.Machine.execMovCrnEaInc n s
  | .movCernEa n => Sys2Proof.Machine.execMovCernEa n s
  | .movCernEaInc n => Sys2Proof.Machine.execMovCernEaInc n s
  | .movCxrnEa n => Sys2Proof.Machine.execMovCxrnEa n s
  | .movCxrnEaInc n => Sys2Proof.Machine.execMovCxrnEaInc n s
  | .movCqrnEa n => Sys2Proof.Machine.execMovCqrnEa n s
  | .movCqrnEaInc n => Sys2Proof.Machine.execMovCqrnEaInc n s
  | .movEaCrm m => Sys2Proof.Machine.execMovEaCrm m s
  | .movEaIncCrm m => Sys2Proof.Machine.execMovEaIncCrm m s
  | .movEaCerm m => Sys2Proof.Machine.execMovEaCerm m s
  | .movEaIncCerm m => Sys2Proof.Machine.execMovEaIncCerm m s
  | .movEaCxrm m => Sys2Proof.Machine.execMovEaCxrm m s
  | .movEaIncCxrm m => Sys2Proof.Machine.execMovEaIncCxrm m s
  | .movEaCqrm m => Sys2Proof.Machine.execMovEaCqrm m s
  | .movEaIncCqrm m => Sys2Proof.Machine.execMovEaIncCqrm m s
  | .leaErm m => Sys2Proof.Machine.execLeaErm m s
  | .leaDisp16Erm m disp => Sys2Proof.Machine.execLeaDisp16Erm m disp s
  | .leaDadr dadr => Sys2Proof.Machine.execLeaDadr dadr s
  | .daaRn n => Sys2Proof.Machine.execDaaRn n s
  | .dasRn n => Sys2Proof.Machine.execDasRn n s
  | .negRn n => Sys2Proof.Machine.execNegRn n s
  | .sbRnBit n bit => Sys2Proof.Machine.execSbRnBit n bit s
  | .sbDbitadr bit dadr => Sys2Proof.Machine.execSbDbitadr bit dadr s
  | .rbRnBit n bit => Sys2Proof.Machine.execRbRnBit n bit s
  | .rbDbitadr bit dadr => Sys2Proof.Machine.execRbDbitadr bit dadr s
  | .tbRnBit n bit => Sys2Proof.Machine.execTbRnBit n bit s
  | .tbDbitadr bit dadr => Sys2Proof.Machine.execTbDbitadr bit dadr s
  | .ei => Sys2Proof.Machine.execEi s
  | .di => Sys2Proof.Machine.execDi s
  | .sc => Sys2Proof.Machine.execSc s
  | .rc => Sys2Proof.Machine.execRc s
  | .cplc => Sys2Proof.Machine.execCplc s
  | .bge radr => Sys2Proof.Machine.execBge radr s
  | .blt radr => Sys2Proof.Machine.execBlt radr s
  | .bgt radr => Sys2Proof.Machine.execBgt radr s
  | .ble radr => Sys2Proof.Machine.execBle radr s
  | .bges radr => Sys2Proof.Machine.execBges radr s
  | .blts radr => Sys2Proof.Machine.execBlts radr s
  | .bgts radr => Sys2Proof.Machine.execBgts radr s
  | .bles radr => Sys2Proof.Machine.execBles radr s
  | .bne radr => Sys2Proof.Machine.execBne radr s
  | .beq radr => Sys2Proof.Machine.execBeq radr s
  | .bnv radr => Sys2Proof.Machine.execBnv radr s
  | .bov radr => Sys2Proof.Machine.execBov radr s
  | .bps radr => Sys2Proof.Machine.execBps radr s
  | .bns radr => Sys2Proof.Machine.execBns radr s
  | .bal radr => Sys2Proof.Machine.execBal radr s
  | .extbwEr0 => Sys2Proof.Machine.execExtbwEr0 s
  | .extbwEr2 => Sys2Proof.Machine.execExtbwEr2 s
  | .extbwEr4 => Sys2Proof.Machine.execExtbwEr4 s
  | .extbwEr6 => Sys2Proof.Machine.execExtbwEr6 s
  | .extbwEr8 => Sys2Proof.Machine.execExtbwEr8 s
  | .extbwEr10 => Sys2Proof.Machine.execExtbwEr10 s
  | .extbwEr12 => Sys2Proof.Machine.execExtbwEr12 s
  | .extbwEr14 => Sys2Proof.Machine.execExtbwEr14 s
  | .swi snum => Sys2Proof.Machine.execSwi snum s
  | .brk => Sys2Proof.Machine.execBrk s
  | .bCadr g cadr => Sys2Proof.Machine.execBCadr g cadr s
  | .bErn n => Sys2Proof.Machine.execBErn n s
  | .blCadr g cadr => Sys2Proof.Machine.execBlCadr g cadr s
  | .blErn n => Sys2Proof.Machine.execBlErn n s
  | .mulErnRm n m => Sys2Proof.Machine.execMulErnRm n m s
  | .divErnRm n m => Sys2Proof.Machine.execDivErnRm n m s
  | .incEa => Sys2Proof.Machine.execIncEa s
  | .decEa => Sys2Proof.Machine.execDecEa s
  | .rt => Sys2Proof.Machine.execRt s
  | .rti => Sys2Proof.Machine.execRti s
  | .nop => Sys2Proof.Machine.execNop s

end Sys2Proof.Machine
end

