-- ==== Sys2Proof/Machine/Fetch.lean ====
section
/-! DEFINITION. Fetching an instruction (spec/30_encoding.md R90; spec/20_memory.md R56, R73), and
placing one where it will be fetched. -/

namespace Sys2Proof.Machine

/-- The instruction of two words, or the refusal of an unlisted first word (spec/30_encoding.md R99;
log 33). -/
def decodeFetched (w1 w2 : Word) : Res Instr :=
  match decodeWords w1 w2 with
  | some i => .next i
  | none => .refused (.unlistedEncoding w1)

/-- The instruction at CSR:PC; its second word, if it has one, is at CSR:(PC + 2). -/
def fetch (s : State) : Res Instr :=
  andThen (s.codeRead16 s.codeSeg s.pc) fun w1 =>
  if hasSecondWord w1 then
    andThen (s.codeRead16 s.codeSeg (s.pc + 2#16)) fun w2 => decodeFetched w1 w2
  else decodeFetched w1 0x0000#16

/-- Memory with a byte placed at a code address from outside the machine (log 4). -/
def State.placeCodeByte (s : State) (seg : Nibble) (off : Word) (v : Byte) : State :=
  if seg = 0x0#4 then { s with code := s.code.write off.toNat v }
  else { s with data := s.data.write (flatAddr seg off) v }

/-- Memory with a list of bytes placed from a code address on. -/
def State.placeCode (s : State) (seg : Nibble) (off : Word) : List Byte → State
  | [] => s
  | b :: bs => (s.placeCodeByte seg off b).placeCode seg (off + 1#16) bs

end Sys2Proof.Machine
end

