-- ==== Sys2Proof/Machine/Interrupts.lean ====
section
/-! DEFINITION. What happens at an instruction boundary: the reset input, the acceptance test and the
priority of requests (spec/60_exceptions.md R370, R374; spec/70_reset_and_hazards.md R410, R420). -/

namespace Sys2Proof.Machine

/-- Nothing presented. -/
def quiet : Inputs := { reset := false, nmice := false, nmi := false, mi := none }

/-- What is presented at this boundary; an empty list presents nothing (log 11). -/
def State.presented (s : State) : Inputs := s.inputs.headD quiet

/-- The state once the boundary is passed: one presentation used, no acknowledgement yet, one boundary
of the window after EI used, and the devices have seen it (log 11, log 13, log 37). -/
def State.tick (s : State) : State :=
  { s with inputs := s.inputs.tail, ack := none, eiWindow := s.eiWindow - 1
           deviceLog := s.deviceLog ++ [.boundary] }

/-- The vector of maskable request `k`: 000AH, 000CH, ..., 007EH (spec/60_exceptions.md R373). -/
def miVector (k : Fin 59) : Word := 0x000A#16 + 2#16 * BitVec.ofNat 16 k.val

/-- NMI acceptable (spec/60_exceptions.md R374; log 32). -/
def State.nmiAcceptable (s : State) : Bool :=
  s.presented.nmi && decide (elevel s.psw ≤ 2#2)

/-- The maskable request that is acceptable, if any (spec/60_exceptions.md R374). -/
def State.miAcceptable (s : State) : Option (Fin 59) :=
  if getFlag s.psw .mie && decide (elevel s.psw ≤ 1#2) then s.presented.mi else none

/-- What a step does. -/
inductive Boundary where
  /-- The reset sequence, from state `t`. -/
  | reset (t : State)
  /-- Acceptance at level `k`, from state `t`. -/
  | accept (k : Bank) (vector : Word) (t : State)
  /-- A stop. -/
  | stop (why : Refusal)
  /-- One instruction, from state `t`. -/
  | execute (t : State)
  deriving DecidableEq, Repr

/-- What a step does: the reset input first; with `int_block` clear the acceptable request of highest
level, NMICE before NMI before MI, at the first opportunity; else one instruction (log 12, log 14,
log 32, log 35). In the window after EI a free bit decides whether a maskable request is accepted
(log 13). -/
def State.boundary (s : State) : Boundary :=
  let t := s.tick
  if s.presented.reset then .reset t
  else if s.intBlock then .execute t
  else if s.presented.nmice then
    if s.cfg.hasLevel3 then .accept .three 0x0006#16 { t with ack := some .nmice }
    else .stop .nmiceWithoutLevel3
  else if s.nmiAcceptable then .accept .two 0x0008#16 { t with ack := some .nmi }
  else
    match s.miAcceptable with
    | none => .execute t
    | some k =>
      if s.eiWindow = 0 then .accept .one (miVector k) { t with ack := some (.mi k) }
      else if Config.freeBit s.draws then
        .accept .one (miVector k) { t with ack := some (.mi k), draws := s.draws + 1 }
      else .execute { t with draws := s.draws + 1 }

end Sys2Proof.Machine
end

