-- ==== Sys2Proof/Machine/Step.lean ====
section
/-! DEFINITION. The step of the machine (spec/60_exceptions.md R370): the reset sequence, one
interrupt acceptance, or one instruction. -/

namespace Sys2Proof.Machine

/-- One step. An accepted request saves PC, the address of the next instruction, and clears MIE only
at level 1 (spec/60_exceptions.md R376). -/
def step (s : State) : Host.Outcome State Fault Refusal :=
  match s.boundary with
  | .reset t => systemReset t
  | .accept k vector t => enterException t k t.pc vector (k == .one)
  | .stop why => .refused why
  | .execute t => andThen (fetch t) fun i => exec i t

/-- The state with the instruction of bits `w` (those from `nbits` on zero, up to two words) stored at
CSR:PC and nothing presented at the coming boundary, so that the next step runs it (log 4). -/
def State.withFetchWord (s : State) (nbits w : Nat) : State :=
  let v : BitVec 32 := BitVec.ofNat 32 (w % 2 ^ nbits)
  { s.placeCode s.codeSeg (evenAddr s.pc) (wordBytes [v.extractLsb' 0 16, v.extractLsb' 16 16]) with
    inputs := quiet :: s.inputs.tail }

end Sys2Proof.Machine
end

