-- ==== Sys2Proof/Safety.lean ====
section
/-! DEFINITION. The terms statements are made in: what holds of every state of a run, what a safe run
is, what an access finds at an address, and what an instruction leaves as it was. -/

namespace Sys2Proof.Machine

/-! ## Runs -/

/-- The step from `s` goes on. -/
def StepGoesOn (s : State) : Prop := ∃ t, step s = .next t

/-- `k` steps from `s` go on. -/
def SafeRun : Nat → State → Prop
  | 0, _ => True
  | k + 1, s => ∃ t, step s = .next t ∧ SafeRun k t

/-- The next state of an outcome, if it has one. -/
def nextState? (x : Res State) : Option State :=
  match x with
  | .next t => some t
  | .fault _ => none
  | .refused _ => none

/-! ## The invariant -/

/-- What every step keeps: memory canonical and inside the address space (spec/20_memory.md R50);
PC, LR and ELR1 to ELR3 even (spec/10_state.md R16, R18); the segment registers 0 in the SMALL model
(R17, R19); the prefix latch set only with the blocking latch (R29, R30); the window after EI at most
two boundaries (spec/70_reset_and_hazards.md R420). -/
structure Inv (s : State) : Prop where
  codeWf : s.code.wf = true
  codeBelow : s.code.below 65536 = true
  dataWf : s.data.wf = true
  dataBelow : s.data.below 16777216 = true
  pcEven : s.pc.getLsbD 0 = false
  lrEven : s.lr.getLsbD 0 = false
  elr1Even : s.elr1.getLsbD 0 = false
  elr2Even : s.elr2.getLsbD 0 = false
  elr3Even : s.elr3.getLsbD 0 = false
  smallCsr : s.cfg.model = .small → s.csr = 0x0#4
  smallLcsr : s.cfg.model = .small → s.lcsr = 0x0#4
  smallEcsr1 : s.cfg.model = .small → s.ecsr1 = 0x0#4
  smallEcsr2 : s.cfg.model = .small → s.ecsr2 = 0x0#4
  smallEcsr3 : s.cfg.model = .small → s.ecsr3 = 0x0#4
  prefixBlocks : s.dsrPrefix = true → s.intBlock = true
  window : s.eiWindow ≤ 2

/-! ## Addresses -/

/-- A store to this address takes effect: it is RAM or a device, outside the ROM window
(spec/20_memory.md R59, R61). -/
def Writable (s : State) (seg : Byte) (off : Word) : Prop :=
  dataPlace s.cfg seg off = .ram ∨ isDevice s.cfg seg off = true

/-- The `n` bytes from `off` on, inside the segment, can be stored to. -/
def WritableRange (s : State) (seg : Byte) (off : Word) (n : Nat) : Prop :=
  ∀ i < n, Writable s seg (off + BitVec.ofNat 16 i)

/-- What the devices see of reads at these distances from `base`, in this order
(spec/20_memory.md R65, R70). -/
def readsSeen (cfg : Config) (seg : Byte) (base : Word) (order : List Nat) : List DeviceEvent :=
  order.flatMap fun k => deviceSees cfg seg (base + BitVec.ofNat 16 k) .read

/-- What the devices see of writes of `v` at these distances from `base`, in this order. -/
def writesSeen (cfg : Config) (seg : Byte) (base : Word) (v : Nat → Byte) (order : List Nat) :
    List DeviceEvent :=
  order.flatMap fun k => deviceSees cfg seg (base + BitVec.ofNat 16 k) fun a => .write a (v k)

/-- Reads at these distances from `base`, in this order, find `b`: a device's byte after all that the
devices have seen until then. -/
def ReadsBytes (s : State) (seg : Byte) (base : Word) (b : Nat → Byte) : List Nat → Prop
  | [] => True
  | k :: order =>
    s.readByte seg (base + BitVec.ofNat 16 k) = .next (b k) ∧
      ReadsBytes (s.afterRead seg (base + BitVec.ofNat 16 k)) seg base b order

/-! ## Frames -/

/-- Every byte of data memory, a device's too, reads after as before. -/
def SameData (s t : State) : Prop := ∀ (g : Byte) (o : Word), t.readByte g o = s.readByte g o

/-- Every byte of data memory but the devices' reads after as before. -/
def SameMemory (s t : State) : Prop :=
  ∀ (g : Byte) (o : Word), isDevice s.cfg g o = false → t.readByte g o = s.readByte g o

/-- From `s` to `t`, `v` was written at these distances from `base`, in this order: each byte that is
no device's reads as `v` says, the devices saw their writes in this order, and every other byte that
is no device's reads as before. -/
def WritesBytes (s t : State) (seg : Byte) (base : Word) (v : Nat → Byte) (order : List Nat) :
    Prop :=
  (∀ k ∈ order, isDevice s.cfg seg (base + BitVec.ofNat 16 k) = false →
    t.readByte seg (base + BitVec.ofNat 16 k) = .next (v k)) ∧
  t.deviceLog = s.deviceLog ++ writesSeen s.cfg seg base v order ∧
  ∀ (g : Byte) (o : Word), isDevice s.cfg g o = false →
    (∀ k ∈ order, ¬(g = seg ∧ o = base + BitVec.ofNat 16 k)) → t.readByte g o = s.readByte g o

/-- Every byte register but the `k` from `n` on is as before. -/
def KeepsRegsBut (s t : State) (n : RegNo) (k : Nat) : Prop :=
  ∀ q : RegNo, (∀ i < k, q ≠ n + BitVec.ofNat 4 i) → t.r q = s.r q

/-- The PSW has these fields; its eight bits are these. -/
def PswIs (p : Byte) (c z s ov mie hc : Bool) (k : BitVec 2) : Prop :=
  getFlag p .c = c ∧ getFlag p .z = z ∧ getFlag p .s = s ∧ getFlag p .ov = ov ∧
    getFlag p .mie = mie ∧ getFlag p .hc = hc ∧ elevel p = k

/-- Nothing but general registers, the PSW, PC (now the next instruction) and the two latches (now
clear) differs, and every byte of data memory reads as before. -/
def FrameRegs (s t : State) (words : Nat) : Prop :=
  t = { s with regs := t.regs, psw := t.psw, pc := s.nextPc words,
               dsrPrefix := false, intBlock := false } ∧ SameData s t

/-- Nothing but general registers, coprocessor registers, the PSW, EA, AR, what the devices have seen, PC
(now the next instruction) and the two latches (now clear) differs, and every byte of data memory
but the devices' reads as before. -/
def FrameLoad (s t : State) (words : Nat) : Prop :=
  t = { s with regs := t.regs, cregs := t.cregs, psw := t.psw, ea := t.ea, ar := t.ar,
               deviceLog := t.deviceLog, pc := s.nextPc words, dsrPrefix := false,
               intBlock := false } ∧ SameMemory s t

/-- Nothing but data memory, what the devices have seen, the PSW, EA, AR, PC (now the next instruction)
and the two latches (now clear) differs. -/
def FrameStore (s t : State) (words : Nat) : Prop :=
  t = { s with data := t.data, deviceLog := t.deviceLog, psw := t.psw, ea := t.ea, ar := t.ar,
               pc := s.nextPc words, dsrPrefix := false, intBlock := false }

/-- Nothing but data memory, what the devices have seen, SP, AR, the index of free values, PC (now the
next instruction) and the two latches (now clear) differs. -/
def FramePush (s t : State) : Prop :=
  t = { s with data := t.data, deviceLog := t.deviceLog, sp := t.sp, ar := t.ar, draws := t.draws,
               pc := s.nextPc 1, dsrPrefix := false, intBlock := false }

/-- The boundary at `s` runs an instruction: no reset input, and `int_block` is set or no request is
acceptable (spec/60_exceptions.md R370, R374). -/
def RunsInstruction (s : State) : Prop :=
  s.presented.reset = false ∧
    (s.intBlock = true ∨
      s.presented.nmice = false ∧ s.nmiAcceptable = false ∧ s.miAcceptable = none)

/-! ## The memory forms, as a table -/

/-- One memory form: its first register, its size in bytes, its address, EA after it, its words. -/
structure Access where
  reg : RegNo
  size : Nat
  addr : Word
  eaAfter : Word
  words : Nat
  deriving DecidableEq, Repr

/-- The forms of L (spec/42_load_store.md R169 to R173, R175 to R192). -/
def loadAccess (i : Instr) (s : State) : Option Access :=
  match i with
  | .lErnEa n => some ⟨n, 2, s.ea, s.ea, 1⟩
  | .lErnEaInc n => some ⟨n, 2, s.ea, (evenAddr (s.ea + 2#16)), 1⟩
  | .lErnErm n m => some ⟨n, 2, (s.er m), s.ea, 1⟩
  | .lErnDisp16Erm n m disp => some ⟨n, 2, (s.er m + disp), s.ea, 2⟩
  | .lErnDisp6Bp n disp => some ⟨n, 2, (s.er 12#4 + disp.signExtend 16), s.ea, 1⟩
  | .lErnDisp6Fp n disp => some ⟨n, 2, (s.er 14#4 + disp.signExtend 16), s.ea, 1⟩
  | .lErnDadr n dadr => some ⟨n, 2, dadr, s.ea, 2⟩
  | .lRnEa n => some ⟨n, 1, s.ea, s.ea, 1⟩
  | .lRnEaInc n => some ⟨n, 1, s.ea, (s.ea + 1#16), 1⟩
  | .lRnErm n m => some ⟨n, 1, (s.er m), s.ea, 1⟩
  | .lRnDisp16Erm n m disp => some ⟨n, 1, (s.er m + disp), s.ea, 2⟩
  | .lRnDisp6Bp n disp => some ⟨n, 1, (s.er 12#4 + disp.signExtend 16), s.ea, 1⟩
  | .lRnDisp6Fp n disp => some ⟨n, 1, (s.er 14#4 + disp.signExtend 16), s.ea, 1⟩
  | .lRnDadr n dadr => some ⟨n, 1, dadr, s.ea, 2⟩
  | .lXrnEa n => some ⟨n, 4, s.ea, s.ea, 1⟩
  | .lXrnEaInc n => some ⟨n, 4, s.ea, (evenAddr (s.ea + 4#16)), 1⟩
  | .lQrnEa n => some ⟨n, 8, s.ea, s.ea, 1⟩
  | .lQrnEaInc n => some ⟨n, 8, s.ea, (evenAddr (s.ea + 8#16)), 1⟩
  | _ => none

/-- The forms of ST (spec/42_load_store.md R169 to R173, R193 to R210). -/
def storeAccess (i : Instr) (s : State) : Option Access :=
  match i with
  | .stErnEa n => some ⟨n, 2, s.ea, s.ea, 1⟩
  | .stErnEaInc n => some ⟨n, 2, s.ea, (evenAddr (s.ea + 2#16)), 1⟩
  | .stErnErm n m => some ⟨n, 2, (s.er m), s.ea, 1⟩
  | .stErnDisp16Erm n m disp => some ⟨n, 2, (s.er m + disp), s.ea, 2⟩
  | .stErnDisp6Bp n disp => some ⟨n, 2, (s.er 12#4 + disp.signExtend 16), s.ea, 1⟩
  | .stErnDisp6Fp n disp => some ⟨n, 2, (s.er 14#4 + disp.signExtend 16), s.ea, 1⟩
  | .stErnDadr n dadr => some ⟨n, 2, dadr, s.ea, 2⟩
  | .stRnEa n => some ⟨n, 1, s.ea, s.ea, 1⟩
  | .stRnEaInc n => some ⟨n, 1, s.ea, (s.ea + 1#16), 1⟩
  | .stRnErm n m => some ⟨n, 1, (s.er m), s.ea, 1⟩
  | .stRnDisp16Erm n m disp => some ⟨n, 1, (s.er m + disp), s.ea, 2⟩
  | .stRnDisp6Bp n disp => some ⟨n, 1, (s.er 12#4 + disp.signExtend 16), s.ea, 1⟩
  | .stRnDisp6Fp n disp => some ⟨n, 1, (s.er 14#4 + disp.signExtend 16), s.ea, 1⟩
  | .stRnDadr n dadr => some ⟨n, 1, dadr, s.ea, 2⟩
  | .stXrnEa n => some ⟨n, 4, s.ea, s.ea, 1⟩
  | .stXrnEaInc n => some ⟨n, 4, s.ea, (evenAddr (s.ea + 4#16)), 1⟩
  | .stQrnEa n => some ⟨n, 8, s.ea, s.ea, 1⟩
  | .stQrnEaInc n => some ⟨n, 8, s.ea, (evenAddr (s.ea + 8#16)), 1⟩
  | _ => none

/-- The moves from memory to the coprocessor (spec/45_coprocessor.md R263 to R270). -/
def coLoadAccess (i : Instr) (s : State) : Option Access :=
  match i with
  | .movCrnEa n => some ⟨n, 1, s.ea, s.ea, 1⟩
  | .movCrnEaInc n => some ⟨n, 1, s.ea, (s.ea + 1#16), 1⟩
  | .movCernEa n => some ⟨n, 2, s.ea, s.ea, 1⟩
  | .movCernEaInc n => some ⟨n, 2, s.ea, (evenAddr (s.ea + 2#16)), 1⟩
  | .movCxrnEa n => some ⟨n, 4, s.ea, s.ea, 1⟩
  | .movCxrnEaInc n => some ⟨n, 4, s.ea, (evenAddr (s.ea + 4#16)), 1⟩
  | .movCqrnEa n => some ⟨n, 8, s.ea, s.ea, 1⟩
  | .movCqrnEaInc n => some ⟨n, 8, s.ea, (evenAddr (s.ea + 8#16)), 1⟩
  | _ => none

/-- The moves from the coprocessor to memory (spec/45_coprocessor.md R271 to R278). -/
def coStoreAccess (i : Instr) (s : State) : Option Access :=
  match i with
  | .movEaCrm m => some ⟨m, 1, s.ea, s.ea, 1⟩
  | .movEaIncCrm m => some ⟨m, 1, s.ea, (s.ea + 1#16), 1⟩
  | .movEaCerm m => some ⟨m, 2, s.ea, s.ea, 1⟩
  | .movEaIncCerm m => some ⟨m, 2, s.ea, (evenAddr (s.ea + 2#16)), 1⟩
  | .movEaCxrm m => some ⟨m, 4, s.ea, s.ea, 1⟩
  | .movEaIncCxrm m => some ⟨m, 4, s.ea, (evenAddr (s.ea + 4#16)), 1⟩
  | .movEaCqrm m => some ⟨m, 8, s.ea, s.ea, 1⟩
  | .movEaIncCqrm m => some ⟨m, 8, s.ea, (evenAddr (s.ea + 8#16)), 1⟩
  | _ => none

/-- Where an access of `size` bytes at `addr` starts: word and larger accesses ignore bit 0
(spec/20_memory.md R63). -/
def alignedTo (size : Nat) (addr : Word) : Word := if size = 1 then addr else addr &&& 0xFFFE#16

/-! ## The stack forms, as a table -/

/-- A register list: bits 11 to 8 of the word. -/
structure StackList where
  lr : Bool
  psw : Bool
  pc : Bool
  ea : Bool
  deriving DecidableEq, Repr

/-- The PUSH lists; `psw` is EPSW and `pc` is ELR (spec/44_push_pop.md R246). -/
def pushListOf (i : Instr) : Option StackList :=
  match i with
  | .pushEa => some ⟨false, false, false, true⟩
  | .pushElr => some ⟨false, false, true, false⟩
  | .pushElrEa => some ⟨false, false, true, true⟩
  | .pushEpsw => some ⟨false, true, false, false⟩
  | .pushEpswEa => some ⟨false, true, false, true⟩
  | .pushElrEpsw => some ⟨false, true, true, false⟩
  | .pushElrEpswEa => some ⟨false, true, true, true⟩
  | .pushLr => some ⟨true, false, false, false⟩
  | .pushLrEa => some ⟨true, false, false, true⟩
  | .pushElrLr => some ⟨true, false, true, false⟩
  | .pushElrLrEa => some ⟨true, false, true, true⟩
  | .pushEpswLr => some ⟨true, true, false, false⟩
  | .pushEpswLrEa => some ⟨true, true, false, true⟩
  | .pushElrEpswLr => some ⟨true, true, true, false⟩
  | .pushElrEpswLrEa => some ⟨true, true, true, true⟩
  | _ => none

/-- The POP lists (spec/44_push_pop.md R251). -/
def popListOf (i : Instr) : Option StackList :=
  match i with
  | .popEa => some ⟨false, false, false, true⟩
  | .popPc => some ⟨false, false, true, false⟩
  | .popEaPc => some ⟨false, false, true, true⟩
  | .popPsw => some ⟨false, true, false, false⟩
  | .popEaPsw => some ⟨false, true, false, true⟩
  | .popPswPc => some ⟨false, true, true, false⟩
  | .popEaPswPc => some ⟨false, true, true, true⟩
  | .popLr => some ⟨true, false, false, false⟩
  | .popEaLr => some ⟨true, false, false, true⟩
  | .popLrPc => some ⟨true, false, true, false⟩
  | .popEaLrPc => some ⟨true, false, true, true⟩
  | .popLrPsw => some ⟨true, true, false, false⟩
  | .popEaLrPsw => some ⟨true, true, false, true⟩
  | .popLrPswPc => some ⟨true, true, true, false⟩
  | .popEaLrPswPc => some ⟨true, true, true, true⟩
  | _ => none

/-- The single-register PUSH forms: the register, its bytes (spec/44_push_pop.md R242 to R245). -/
def pushRegOf (i : Instr) : Option (RegNo × Nat) :=
  match i with
  | .pushRn n => some (n, 1)
  | .pushErn n => some (n, 2)
  | .pushXrn n => some (n, 4)
  | .pushQrn n => some (n, 8)
  | _ => none

/-- The single-register POP forms: the register, its bytes (spec/44_push_pop.md R252 to R255). -/
def popRegOf (i : Instr) : Option (RegNo × Nat) :=
  match i with
  | .popRn n => some (n, 1)
  | .popErn n => some (n, 2)
  | .popXrn n => some (n, 4)
  | .popQrn n => some (n, 8)
  | _ => none

/-- A PUSH or a POP. -/
def usesStack (i : Instr) : Bool :=
  (pushListOf i).isSome || (popListOf i).isSome || (pushRegOf i).isSome || (popRegOf i).isSome

/-- A DSR prefix word (spec/30_encoding.md R97). -/
def isPrefixWord (i : Instr) : Bool :=
  match i with
  | .dsrPrefixSeg _ => true
  | .dsrPrefixRd _ => true
  | .dsrPrefixDsr => true
  | _ => false

/-- How far a register of `k` bytes moves SP: a byte is joined by a dummy byte. -/
def stackRoom (k : Nat) : Nat := if k = 1 then 2 else k

/-- What the spec says of one byte of a stack frame. -/
inductive StackByte where
  /-- This byte. -/
  | exactly (b : Byte)
  /-- Bits 3:0 are these; bits 7:4 are open. -/
  | lowNibble (v : Nibble)
  /-- Open. -/
  | anyByte
  deriving DecidableEq, Repr

/-- Whether a byte is as the spec says. -/
def StackByte.admits (x : StackByte) (v : Byte) : Prop :=
  match x with
  | .exactly b => v = b
  | .lowNibble n => v.extractLsb' 0 4 = n
  | .anyByte => True

/-- The frame of a code address, lowest address first (spec/44_push_pop.md R248, R250). -/
def codeAddrFrame (s : State) (off : Word) (seg : Nibble) : List StackByte :=
  if s.cfg.model = .large then
    [.exactly (off.extractLsb' 0 8), .exactly (off.extractLsb' 8 8), .lowNibble seg, .anyByte]
  else [.exactly (off.extractLsb' 0 8), .exactly (off.extractLsb' 8 8)]

/-- What PUSH of a list leaves from the new SP upward, with backup set `k` (spec/44_push_pop.md R246 to
R250). -/
def pushFrame (s : State) (x : StackList) (k : Bank) : List StackByte :=
  (if x.ea then [.exactly (s.ea.extractLsb' 0 8), .exactly (s.ea.extractLsb' 8 8)] else []) ++
  (if x.lr then codeAddrFrame s s.lr s.lcsr else []) ++
  (if x.psw then [.exactly (s.epsw k), .anyByte] else []) ++
  (if x.pc then codeAddrFrame s (s.elr k) (s.ecsr k) else [])

/-! ## Where the bytes of a frame lie and the order they are accessed in, from the lower end -/

/-- The size of a code address on the stack (spec/44_push_pop.md R248, R250, R251). -/
def linkSize (s : State) : Nat := if s.cfg.model = .large then 4 else 2

/-- Where LR lies in a list's frame: above EA. -/
def StackList.lrAt (x : StackList) : Nat := if x.ea then 2 else 0

/-- Where the PSW lies, or EPSW: above LR. -/
def StackList.pswAt (x : StackList) (s : State) : Nat := x.lrAt + if x.lr then linkSize s else 0

/-- Where PC lies, or ELR: above the PSW. -/
def StackList.pcAt (x : StackList) (s : State) : Nat := x.pswAt s + if x.psw then 2 else 0

/-- The size of a list's frame. -/
def StackList.size (x : StackList) (s : State) : Nat := x.pcAt s + if x.pc then linkSize s else 0

/-- The order a code address is pushed in: the dummy byte first, then the segment byte, then the
offset (spec/44_push_pop.md R248). -/
def linkPushOrder (s : State) : List Nat := if s.cfg.model = .large then [3, 2, 0, 1] else [0, 1]

/-- The order a code address is popped in; its dummy byte is skipped (spec/44_push_pop.md R251). -/
def linkPopOrder (s : State) : List Nat := if s.cfg.model = .large then [0, 1, 2] else [0, 1]

/-- The order a list is pushed in: ELR, EPSW, LR, EA (spec/44_push_pop.md R246). -/
def pushListOrder (s : State) (x : StackList) : List Nat :=
  (if x.pc then (linkPushOrder s).map (x.pcAt s + ·) else []) ++
  (if x.psw then [x.pswAt s + 1, x.pswAt s] else []) ++
  (if x.lr then (linkPushOrder s).map (x.lrAt + ·) else []) ++
  (if x.ea then [0, 1] else [])

/-- The order a list is popped in: EA, LR, PSW, PC (spec/44_push_pop.md R251). -/
def popListOrder (s : State) (x : StackList) : List Nat :=
  (if x.ea then [0, 1] else []) ++
  (if x.lr then (linkPopOrder s).map (x.lrAt + ·) else []) ++
  (if x.psw then [x.pswAt s] else []) ++
  (if x.pc then (linkPopOrder s).map (x.pcAt s + ·) else [])

/-- The order registers are pushed in: one byte after its dummy byte, more ascending
(spec/44_push_pop.md R242 to R245). -/
def pushRegOrder (k : Nat) : List Nat := if k = 1 then [1, 0] else List.range k

/-! ## Where an access stops -/

/-- A data address inside the ROM window (spec/20_memory.md R58). -/
abbrev InWindow (s : State) (seg : Byte) (off : Word) : Prop :=
  seg = 0x00#8 ∧ s.cfg.romWinLo ≤ off ∧ off ≤ s.cfg.romWinHi

/-- Whether and how the read of a byte stops (spec/20_memory.md R58, R60). -/
def readStop (s : State) (seg : Byte) (off : Word) : Option (Res State) :=
  let addr := seg.toNat * 65536 + off.toNat
  if InWindow s seg off then
    if codePresent s.cfg off.toNat then none else some (.fault (.unimplementedCode off.toNat))
  else if dataKind s.cfg addr = none then some (.fault (.unimplementedData addr))
  else none

/-- Whether and how the write of a byte stops (spec/20_memory.md R59, R61). -/
def writeStop (s : State) (seg : Byte) (off : Word) : Option (Res State) :=
  let addr := seg.toNat * 65536 + off.toNat
  if InWindow s seg off then
    some (.refused (.romWindowWrite addr))
  else if dataKind s.cfg addr = none then some (.fault (.unimplementedData addr))
  else if dataKind s.cfg addr = some .rom then some (.refused (.romWrite addr))
  else none

/-- The first stop among accesses at these distances from `base`, in this order. -/
def firstStop (stop : Word → Option (Res State)) (base : Word) (order : List Nat) :
    Option (Res State) :=
  order.findSome? fun k => stop (base + BitVec.ofNat 16 k)

/-- The instruction stops so, or, with no stop, goes on. -/
def StopsOrGoesOn (i : Instr) (s : State) (stop : Option (Res State)) : Prop :=
  match stop with
  | some e => exec i s = e
  | none => ∃ t, exec i s = .next t

end Sys2Proof.Machine
end

