-- ==== Sys2Proof/Certificates/Slice0/Obligations.lean ====
section
/-! DEFINITION. The statements for the provers. Each docstring names the rule of spec/ it comes from; a
statement that rests on a decision the spec marks as its own, or on a choice of this model, says
so. -/

open Sys2Proof Sys2Proof.Machine

/-! ## Encoding -/

/-- spec/30_encoding.md R90 to R100: decoding the bytes of a well-formed instruction gives it back, and
leaves the bytes after it. -/
def Obligations.DecodingAnEncodedInstructionGivesItBack : Prop :=
  ∀ (i : Instr) (rest : List Byte), i.wf = true →
    decode (encodeBytes i ++ rest) = .ok (i, rest)

/-- spec/30_encoding.md R93, R99: what the decoder accepts is well formed and encodes to the words it was
read from, so no bit of an accepted word is ignored. -/
def Obligations.DecodedWordsEncodeBackToThemselves : Prop :=
  ∀ (w1 w2 : Word) (i : Instr), decodeWords w1 w2 = some i →
    i.wf = true ∧ encode i = if i.words = 2 then [w1, w2] else [w1]

/-- Fifteen of the words the spec writes out for its examples (spec/40_arithmetic.md to
spec/48_muldiv_misc.md) decode to the instructions they stand for, and the 29 words of spec/96_test_vectors_2.md T361 to T389 to none. -/
def Obligations.WordsWrittenInTheSpecDecodeAsItSays : Prop :=
  decodeWords 0x8011#16 0#16 = some (.addRnRm 0#4 1#4) ∧
  decodeWords 0x805A#16 0#16 = some (.sllRnRm 0#4 5#4) ∧
  decodeWords 0xE305#16 0#16 = some (.dsrPrefixSeg 0x05#8) ∧
  decodeWords 0x9128#16 0xFFFF#16 = some (.lRnDisp16Erm 1#4 2#4 0xFFFF#16) ∧
  decodeWords 0xB27E#16 0#16 = some (.lErnDisp6Fp 2#4 0x3E#6) ∧
  decodeWords 0xE1FC#16 0#16 = some (.addSpSigned8 0xFC#8) ∧
  decodeWords 0xF6CE#16 0#16 = some .pushElrEpsw ∧
  decodeWords 0xF68E#16 0#16 = some .popPswPc ∧
  decodeWords 0xF44D#16 0#16 = some (.movCxrnEa 4#4) ∧
  decodeWords 0xA0C2#16 0x8000#16 = some (.rbDbitadr 4#3 0x8000#16) ∧
  decodeWords 0xC904#16 0#16 = some (.beq 0x04#8) ∧
  decodeWords 0x8FEF#16 0#16 = some .extbwEr14 ∧
  decodeWords 0xE502#16 0#16 = some (.swi 2#6) ∧
  decodeWords 0xF100#16 0x2340#16 = some (.bCadr 0x1#4 0x2340#16) ∧
  decodeWords 0xF014#16 0#16 = some (.mulErnRm 0#4 1#4) ∧
  ([0xF0CE#16, 0xF08E#16, 0xCF10#16, 0x830F#16, 0x800F#16, 0xE540#16, 0xE580#16, 0xF124#16,
      0xF129#16, 0xF125#16, 0xF035#16, 0x9132#16, 0x9234#16, 0x9436#16, 0x908A#16, 0x911F#16,
      0xA180#16, 0xE700#16, 0xEF00#16, 0xEB00#16, 0xED00#16, 0xED88#16, 0xF008#16, 0xFE4F#16,
      0xFF0F#16, 0x802F#16, 0xF10C#16, 0xF01A#16, 0xF012#16] : List Word).all
    (fun w => (decodeWords w 0#16).isNone) = true

/-! ## The step -/

/-- spec/60_exceptions.md R370: when no reset input and no acceptable request is presented and the words
at CSR:PC are those of a well-formed instruction, the step is that instruction's meaning, on the
state with one presentation used, the last acknowledgement cleared, one boundary of the window after
EI used and the boundary seen by the devices (log 11, log 13, log 37). -/
def Obligations.StepRunsTheDecodedInstruction : Prop :=
  ∀ (s : State) (i : Instr) (w1 w2 : Word), RunsInstruction s → i.wf = true →
    s.codeRead16 s.codeSeg s.pc = .next w1 →
    (encode i = [w1] ∨
      encode i = [w1, w2] ∧ s.codeRead16 s.codeSeg (s.pc + 2#16) = .next w2) →
    step s = exec i { s with inputs := s.inputs.tail, ack := none, eiWindow := s.eiWindow - 1,
                             deviceLog := s.deviceLog ++ [.boundary] }

/-- spec/30_encoding.md R99, with the spec's decision D19 (log 33): a first word that matches no row stops
the step, and nothing else does it in its place. -/
def Obligations.UnlistedFirstWordStopsTheStep : Prop :=
  ∀ (s : State) (w : Word), RunsInstruction s → s.codeRead16 s.codeSeg s.pc = .next w →
    (step s = .refused (.unlistedEncoding w) ↔
      ∀ (i : Instr) (w2 : Word), i.wf = true → encode i ≠ [w] ∧ encode i ≠ [w, w2])

/-- spec/10_state.md R34: after reset the PSW is 00H (so ELEVEL is 0 and MIE clear), CSR and DSR are 0,
the prefix latch is clear and the blocking latch set, and SP and PC are the words at code addresses
0000H and 0002H, PC with bit 0 cleared. -/
def Obligations.ResetStateHoldsTheStatedValues : Prop :=
  State.reset.psw = 0x00#8 ∧ State.reset.csr = 0x0#4 ∧ State.reset.dsr = 0x00#8 ∧
  State.reset.dsrPrefix = false ∧ State.reset.intBlock = true ∧
  State.reset.codeRead16 0x0#4 0x0000#16 = .next State.reset.sp ∧
  ∃ w, State.reset.codeRead16 0x0#4 0x0002#16 = .next w ∧ State.reset.pc = w &&& 0xFFFE#16

/-- The invariant of StepKeepsTheInvariant holds at reset. -/
def Obligations.ResetStateMeetsTheInvariant : Prop := Inv State.reset

/-- spec/10_state.md R16 to R19, R29, R30, spec/20_memory.md R50: every step keeps the invariant: memory
canonical and inside the address space, PC, LR and ELR1 to ELR3 even, the segment registers 0 in the
SMALL model, the prefix latch set only with the blocking latch, the window after EI at most two
boundaries. The window and the canonical form are the model's own (log 2, log 13); that the segment
registers stay 0 in the SMALL model rests on the spec's decision D27 (log 20), and that LR and ELR1
to ELR3 stay even under every writer on its decision D13 (log 18). -/
def Obligations.StepKeepsTheInvariant : Prop :=
  ∀ s t : State, Inv s → step s = .next t → Inv t

/-- spec/70_reset_and_hazards.md R410, with the spec's decision D24 (log 6, log 7): the reset input at a
boundary, whatever the latches and the requests, performs the reset sequence. Data and code memory
read as before: the model's reading (log 7). The devices see the reset, and what they give after it is
left open (log 37). -/
def Obligations.ResetInputPerformsTheResetSequence : Prop :=
  ∀ (s : State) (spw pcw : Word), s.presented.reset = true →
    s.codeRead16 0x0#4 0x0000#16 = .next spw → s.codeRead16 0x0#4 0x0002#16 = .next pcw →
    ∃ t, step s = .next t ∧ t.psw = 0x00#8 ∧ t.csr = 0x0#4 ∧ t.dsr = 0x00#8 ∧ t.sp = spw ∧
      t.pc = pcw &&& 0xFFFE#16 ∧ t.dsrPrefix = false ∧ t.intBlock = true ∧
      t.lr.getLsbD 0 = false ∧ t.elr1.getLsbD 0 = false ∧ t.elr2.getLsbD 0 = false ∧
      t.elr3.getLsbD 0 = false ∧ t.cfg = s.cfg ∧ t.code = s.code ∧ SameMemory s t ∧
      t.deviceLog = s.deviceLog ++ [.boundary, .reset] ∧ t.inputs = s.inputs.tail ∧ t.ack = none

/-! ## Interrupts -/

/-- spec/60_exceptions.md R374, R376, R379, with the spec's decisions D21, D27 and D28 (log 20,
log 32): a non-maskable request is accepted at ELEVEL 0 to 2, whatever MIE and whatever maskable request stands
beside it. PC, CSR and PSW are saved in set 2, ELEVEL becomes 2, every other PSW bit is kept, CSR
becomes 0, PC is the word at 0008H, requests are blocked for one instruction, and nothing else
changes but the model's own inputs, acknowledgement, window and device log (log 11, log 13,
log 37). -/
def Obligations.NonMaskableRequestIsAccepted : Prop :=
  ∀ (s : State) (w : Word), s.presented.reset = false → s.intBlock = false →
    s.presented.nmice = false → s.presented.nmi = true → elevel s.psw ≤ 2#2 →
    s.codeRead16 0x0#4 0x0008#16 = .next w →
    ∃ t, step s = .next t ∧
      t = { s with elr2 := s.pc &&& 0xFFFE#16, ecsr2 := t.ecsr2, epsw2 := s.psw, psw := t.psw,
                   csr := t.csr, pc := w &&& 0xFFFE#16, intBlock := true,
                   inputs := s.inputs.tail, ack := some .nmi, eiWindow := s.eiWindow - 1,
                   deviceLog := s.deviceLog ++ [.boundary] } ∧
      (s.cfg.model = .large → t.ecsr2 = s.csr ∧ t.csr = 0x0#4) ∧
      (s.cfg.model = .small → t.ecsr2 = s.ecsr2 ∧ t.csr = s.csr) ∧
      elevel t.psw = 2#2 ∧ (∀ f, getFlag t.psw f = getFlag s.psw f) ∧ SameMemory s t

/-- spec/60_exceptions.md R373, R374, R376, R381, with the spec's decision D27 on the SMALL model
(log 20): a maskable request, its vector at 000AH + 2k, is
accepted with MIE set at ELEVEL 0 and 1, outside the window after EI. As for the non-maskable
request, with set 1, ELEVEL 1, and MIE cleared. -/
def Obligations.MaskableRequestIsAccepted : Prop :=
  ∀ (s : State) (k : Fin 59) (w : Word), s.presented = ⟨false, false, false, some k⟩ → s.intBlock = false → getFlag s.psw .mie = true → elevel s.psw ≤ 1#2 →
    s.eiWindow = 0 → s.codeRead16 0x0#4 (BitVec.ofNat 16 (0x000A + 2 * k.val)) = .next w →
    ∃ t, step s = .next t ∧
      t = { s with elr1 := s.pc &&& 0xFFFE#16, ecsr1 := t.ecsr1, epsw1 := s.psw, psw := t.psw,
                   csr := t.csr, pc := w &&& 0xFFFE#16, intBlock := true,
                   inputs := s.inputs.tail, ack := some (.mi k), eiWindow := 0,
                   deviceLog := s.deviceLog ++ [.boundary] } ∧
      (s.cfg.model = .large → t.ecsr1 = s.csr ∧ t.csr = 0x0#4) ∧
      (s.cfg.model = .small → t.ecsr1 = s.ecsr1 ∧ t.csr = s.csr) ∧
      elevel t.psw = 1#2 ∧ getFlag t.psw .mie = false ∧
      (∀ f, f ≠ .mie → getFlag t.psw f = getFlag s.psw f) ∧ SameMemory s t

/-- spec/60_exceptions.md R374, R377, with the spec's decisions D4, D20, D21 and D27 (log 14,
log 20, log 32): an
emulator request is accepted at every ELEVEL and before every other request, through set 3 and
vector 0006H, MIE kept; on a product without level 3 the step stops. -/
def Obligations.EmulatorRequestIsAcceptedOrStops : Prop :=
  ∀ (s : State) (w : Word), s.presented.reset = false → s.intBlock = false →
    s.presented.nmice = true →
    (s.cfg.hasLevel3 = false → step s = .refused .nmiceWithoutLevel3) ∧
    (s.cfg.hasLevel3 = true → s.codeRead16 0x0#4 0x0006#16 = .next w →
      ∃ t, step s = .next t ∧
        t = { s with elr3 := s.pc &&& 0xFFFE#16, ecsr3 := t.ecsr3, epsw3 := s.psw, psw := t.psw,
                     csr := t.csr, pc := w &&& 0xFFFE#16, intBlock := true,
                     inputs := s.inputs.tail, ack := some .nmice, eiWindow := s.eiWindow - 1,
                     deviceLog := s.deviceLog ++ [.boundary] } ∧
        (s.cfg.model = .large → t.ecsr3 = s.csr ∧ t.csr = 0x0#4) ∧
        (s.cfg.model = .small → t.ecsr3 = s.ecsr3 ∧ t.csr = s.csr) ∧
        elevel t.psw = 3#2 ∧ (∀ f, getFlag t.psw f = getFlag s.psw f) ∧ SameMemory s t)

/-- spec/60_exceptions.md R374, R375, with the spec's decision D20 (log 14) on emulator requests: while
`int_block` is set no request is accepted, an emulator request and the block after a reset included;
with it clear a non-maskable request waits at ELEVEL 3 and a maskable one waits with MIE clear or at
ELEVEL 2 and 3. Then the step is what it is with the request absent. That requests are a list of
presentations is the model's choice (log 11). -/
def Obligations.BlockedAndMaskedRequestsWait : Prop :=
  ∀ (s : State) (rest : List Inputs) (nmice nmi : Bool) (mi : Option (Fin 59)),
    (s.intBlock = true →
      step { s with inputs := ⟨false, nmice, nmi, mi⟩ :: rest } =
        step { s with inputs := ⟨false, false, false, none⟩ :: rest }) ∧
    (elevel s.psw = 3#2 →
      step { s with inputs := ⟨false, false, nmi, mi⟩ :: rest } =
        step { s with inputs := ⟨false, false, false, none⟩ :: rest }) ∧
    (2#2 ≤ elevel s.psw ∨ getFlag s.psw .mie = false →
      step { s with inputs := ⟨false, false, nmi, mi⟩ :: rest } =
        step { s with inputs := ⟨false, false, nmi, none⟩ :: rest })

/-- spec/70_reset_and_hazards.md R420, with the spec's decision D17 (log 13): EI opens a window of two
boundaries; in it an acceptable maskable request is either accepted, as outside the window, or left
waiting while the instruction runs. Which of the two is a free choice; the statement holds for
either. -/
def Obligations.AcceptanceIsOptionalInTheWindowAfterEi : Prop :=
  (∀ s t : State, exec .ei s = .next t → t.eiWindow = 2) ∧
  ∀ (s : State) (k : Fin 59), s.presented = ⟨false, false, false, some k⟩ → s.intBlock = false → getFlag s.psw .mie = true → elevel s.psw ≤ 1#2 →
    0 < s.eiWindow →
    let u : State := { s with inputs := s.inputs.tail, ack := none, eiWindow := s.eiWindow - 1,
                              deviceLog := s.deviceLog ++ [.boundary], draws := s.draws + 1 }
    step s = enterException { u with ack := some (.mi k) } .one s.pc
        (BitVec.ofNat 16 (0x000A + 2 * k.val)) true ∨
      step s = andThen (fetch u) fun i => exec i u

/-! ## Byte and word arithmetic -/

/-- spec/40_arithmetic.md R122, R123, R126, R127: ADD and ADDC of a byte register and a byte register or
immediate, with their encodings, their result and every flag; Z of ADDC stays 1 only if it was 1. -/
def Obligations.ByteAdditionAddsAndSetsEveryFlag : Prop :=
  (∀ (n m : RegNo) (imm : Byte) (w2 : Word),
    decodeWords (packWord 0x8#4 n m 0x1#4) w2 = some (.addRnRm n m) ∧
    decodeWords (packWord 0x1#4 n (hiNibble imm) (loNibble imm)) w2 = some (.addRnImm8 n imm) ∧
    decodeWords (packWord 0x8#4 n m 0x6#4) w2 = some (.addcRnRm n m) ∧
    decodeWords (packWord 0x6#4 n (hiNibble imm) (loNibble imm)) w2 = some (.addcRnImm8 n imm)) ∧
  ∀ (s : State) (i : Instr) (n m : RegNo) (b : Byte) (cin zin : Bool),
    (i = .addRnRm n m ∧ b = s.r m ∧ cin = false ∧ zin = true ∨
      i = .addRnImm8 n b ∧ cin = false ∧ zin = true ∨
      i = .addcRnRm n m ∧ b = s.r m ∧ cin = getFlag s.psw .c ∧ zin = getFlag s.psw .z ∨
      i = .addcRnImm8 n b ∧ cin = getFlag s.psw .c ∧ zin = getFlag s.psw .z) →
    let a := s.r n
    let sum := a.toNat + b.toNat + cin.toNat
    let signed : Int := a.toInt + b.toInt + cin.toNat
    ∃ t, exec i s = .next t ∧ FrameRegs s t 1 ∧ KeepsRegsBut s t n 1 ∧
      (t.r n).toNat = sum % 256 ∧
      PswIs t.psw (decide (256 ≤ sum)) (zin && decide (sum % 256 = 0)) (decide (128 ≤ sum % 256))
        (decide (signed < -128 ∨ 127 < signed)) (getFlag s.psw .mie)
        (decide (16 ≤ a.toNat % 16 + b.toNat % 16 + cin.toNat)) (elevel s.psw)

/-- spec/40_arithmetic.md R128 to R131, R138, R139 and spec/46_ea_alu_bit_psw.md R295, with the spec's
decision D29 on the sense of C (log 21): SUB, SUBC, CMP, CMPC and NEG: the difference, kept out of the
register by CMP and CMPC, and every flag, C being the borrow; Z of SUBC and CMPC stays 1 only if it
was 1. -/
def Obligations.ByteSubtractionSubtractsAndSetsEveryFlag : Prop :=
  ∀ (s : State) (i : Instr) (n m : RegNo) (a b : Byte) (bin zin writes : Bool),
    (i = .subRnRm n m ∧ a = s.r n ∧ b = s.r m ∧ bin = false ∧ zin = true ∧ writes = true ∨
      i = .cmpRnRm n m ∧ a = s.r n ∧ b = s.r m ∧ bin = false ∧ zin = true ∧ writes = false ∨
      i = .cmpRnImm8 n b ∧ a = s.r n ∧ bin = false ∧ zin = true ∧ writes = false ∨
      i = .subcRnRm n m ∧ a = s.r n ∧ b = s.r m ∧ bin = getFlag s.psw .c ∧
        zin = getFlag s.psw .z ∧ writes = true ∨
      i = .cmpcRnRm n m ∧ a = s.r n ∧ b = s.r m ∧ bin = getFlag s.psw .c ∧
        zin = getFlag s.psw .z ∧ writes = false ∨
      i = .cmpcRnImm8 n b ∧ a = s.r n ∧ bin = getFlag s.psw .c ∧ zin = getFlag s.psw .z ∧
        writes = false ∨
      i = .negRn n ∧ a = 0x00#8 ∧ b = s.r n ∧ bin = false ∧ zin = true ∧ writes = true) →
    let d : Int := (a.toNat : Int) - b.toNat - bin.toNat
    let signed : Int := a.toInt - b.toInt - bin.toNat
    ∃ t, exec i s = .next t ∧ FrameRegs s t 1 ∧ KeepsRegsBut s t n 1 ∧
      ((t.r n).toNat : Int) = (if writes then d % 256 else ((s.r n).toNat : Int)) ∧
      PswIs t.psw (decide (d < 0)) (zin && decide (d % 256 = 0)) (decide (128 ≤ d % 256))
        (decide (signed < -128 ∨ 127 < signed)) (getFlag s.psw .mie)
        (decide (a.toNat % 16 < b.toNat % 16 + bin.toNat)) (elevel s.psw)

/-- spec/40_arithmetic.md R124, R125, R132 to R137: MOV, AND, OR and XOR of a byte register and a byte
register or immediate, with their encodings: the result, Z and S from it, every other flag kept. -/
def Obligations.ByteMovesAndLogicSetOnlyZAndS : Prop :=
  (∀ (n m : RegNo) (imm : Byte) (w2 : Word),
    decodeWords (packWord 0x8#4 n m 0x0#4) w2 = some (.movRnRm n m) ∧
    decodeWords (packWord 0x0#4 n (hiNibble imm) (loNibble imm)) w2 = some (.movRnImm8 n imm) ∧
    decodeWords (packWord 0x8#4 n m 0x2#4) w2 = some (.andRnRm n m) ∧
    decodeWords (packWord 0x2#4 n (hiNibble imm) (loNibble imm)) w2 = some (.andRnImm8 n imm) ∧
    decodeWords (packWord 0x8#4 n m 0x3#4) w2 = some (.orRnRm n m) ∧
    decodeWords (packWord 0x3#4 n (hiNibble imm) (loNibble imm)) w2 = some (.orRnImm8 n imm) ∧
    decodeWords (packWord 0x8#4 n m 0x4#4) w2 = some (.xorRnRm n m) ∧
    decodeWords (packWord 0x4#4 n (hiNibble imm) (loNibble imm)) w2 = some (.xorRnImm8 n imm)) ∧
  ∀ (s : State) (i : Instr) (n m : RegNo) (b v : Byte),
    (i = .movRnRm n m ∧ v = s.r m ∨ i = .movRnImm8 n b ∧ v = b ∨
      i = .andRnRm n m ∧ v = s.r n &&& s.r m ∨ i = .andRnImm8 n b ∧ v = s.r n &&& b ∨
      i = .orRnRm n m ∧ v = s.r n ||| s.r m ∨ i = .orRnImm8 n b ∧ v = s.r n ||| b ∨
      i = .xorRnRm n m ∧ v = s.r n ^^^ s.r m ∨ i = .xorRnImm8 n b ∧ v = s.r n ^^^ b) →
    ∃ t, exec i s = .next t ∧ FrameRegs s t 1 ∧ KeepsRegsBut s t n 1 ∧ t.r n = v ∧
      PswIs t.psw (getFlag s.psw .c) (decide (v = 0x00#8)) (decide (128 ≤ v.toNat))
        (getFlag s.psw .ov) (getFlag s.psw .mie) (getFlag s.psw .hc) (elevel s.psw)

/-- spec/40_arithmetic.md R142, R143: ADD of a word register and a word register or a sign-extended 7-bit
immediate, with their encodings, their result and every flag, HC from bit 11. -/
def Obligations.WordAdditionAddsAndSetsEveryFlag : Prop :=
  (∀ (n m : RegNo) (imm : BitVec 7) (w2 : Word), isWordReg n = true → isWordReg m = true →
    decodeWords (packWord 0xF#4 n m 0x6#4) w2 = some (.addErnErm n m) ∧
    decodeWords (packWord 0xE#4 n (0b1#1 ++ imm.extractLsb' 4 3) (imm.extractLsb' 0 4)) w2 =
      some (.addErnImm7 n imm)) ∧
  ∀ (s : State) (i : Instr) (n m : RegNo) (imm : BitVec 7) (b : Word),
    (i = .addErnErm n m ∧ b = s.er m ∨ i = .addErnImm7 n imm ∧ b.toInt = imm.toInt) →
    let a := s.er n
    let sum := a.toNat + b.toNat
    let signed : Int := a.toInt + b.toInt
    ∃ t, exec i s = .next t ∧ FrameRegs s t 1 ∧ KeepsRegsBut s t n 2 ∧
      (t.er n).toNat = sum % 65536 ∧
      PswIs t.psw (decide (65536 ≤ sum)) (decide (sum % 65536 = 0)) (decide (32768 ≤ sum % 65536))
        (decide (signed < -32768 ∨ 32767 < signed)) (getFlag s.psw .mie)
        (decide (4096 ≤ a.toNat % 4096 + b.toNat % 4096)) (elevel s.psw)

/-- spec/40_arithmetic.md R144, with the spec's decision D29 (log 21): CMP of word registers changes the
flags alone. -/
def Obligations.WordComparisonSetsEveryFlagAndNoRegister : Prop :=
  ∀ (s : State) (n m : RegNo),
    let a := s.er n
    let b := s.er m
    let d : Int := (a.toNat : Int) - b.toNat
    let signed : Int := a.toInt - b.toInt
    ∃ t, exec (.cmpErnErm n m) s = .next t ∧ FrameRegs s t 1 ∧ t.regs = s.regs ∧
      PswIs t.psw (decide (d < 0)) (decide (d = 0)) (decide (32768 ≤ d % 65536))
        (decide (signed < -32768 ∨ 32767 < signed)) (getFlag s.psw .mie)
        (decide (a.toNat % 4096 < b.toNat % 4096)) (elevel s.psw)

/-- spec/40_arithmetic.md R140, R141: MOV of a word register from a word register or a sign-extended 7-bit
immediate, with their encodings: Z and S from the word, every other flag kept. -/
def Obligations.WordMovesSetOnlyZAndS : Prop :=
  (∀ (n m : RegNo) (imm : BitVec 7) (w2 : Word), isWordReg n = true → isWordReg m = true →
    decodeWords (packWord 0xF#4 n m 0x5#4) w2 = some (.movErnErm n m) ∧
    decodeWords (packWord 0xE#4 n (0b0#1 ++ imm.extractLsb' 4 3) (imm.extractLsb' 0 4)) w2 =
      some (.movErnImm7 n imm)) ∧
  ∀ (s : State) (i : Instr) (n m : RegNo) (imm : BitVec 7) (v : Word),
    (i = .movErnErm n m ∧ v = s.er m ∨ i = .movErnImm7 n imm ∧ v.toInt = imm.toInt) →
    ∃ t, exec i s = .next t ∧ FrameRegs s t 1 ∧ KeepsRegsBut s t n 2 ∧ t.er n = v ∧
      PswIs t.psw (getFlag s.psw .c) (decide (v = 0x0000#16)) (decide (32768 ≤ v.toNat))
        (getFlag s.psw .ov) (getFlag s.psw .mie) (getFlag s.psw .hc) (elevel s.psw)

/-- spec/47_branch_swi.md R321, with the spec's decision D29 on the sense of C (log 21): after CMP a,b the conditions have the meanings their names give, for byte
registers, a byte immediate and word registers. -/
def Obligations.ConditionsAfterCompareMeanTheirNames : Prop :=
  ∀ (s t : State) (i : Instr) (n m : RegNo) (imm : Byte) (ua ub sa sb : Int),
    exec i s = .next t →
    (i = .cmpRnRm n m ∧ ua = (s.r n).toNat ∧ ub = (s.r m).toNat ∧ sa = (s.r n).toInt ∧
        sb = (s.r m).toInt ∨
      i = .cmpRnImm8 n imm ∧ ua = (s.r n).toNat ∧ ub = imm.toNat ∧ sa = (s.r n).toInt ∧
        sb = imm.toInt ∨
      i = .cmpErnErm n m ∧ ua = (s.er n).toNat ∧ ub = (s.er m).toNat ∧ sa = (s.er n).toInt ∧
        sb = (s.er m).toInt) →
    Cond.ge.holds t.psw = decide (ub ≤ ua) ∧ Cond.lt.holds t.psw = decide (ua < ub) ∧
    Cond.gt.holds t.psw = decide (ub < ua) ∧ Cond.le.holds t.psw = decide (ua ≤ ub) ∧
    Cond.ges.holds t.psw = decide (sb ≤ sa) ∧ Cond.lts.holds t.psw = decide (sa < sb) ∧
    Cond.gts.holds t.psw = decide (sb < sa) ∧ Cond.les.holds t.psw = decide (sa ≤ sb) ∧
    Cond.ne.holds t.psw = decide (ua ≠ ub) ∧ Cond.eq.holds t.psw = decide (ua = ub)

/-! ## Shifts -/

/-- spec/41_shift.md R151, R152, R157, R158: SLL and SRL by a register's low three bits or by a constant,
with their encodings: zeros come in, C is the last bit shifted out, and a count of 0 changes
nothing. -/
def Obligations.LogicalShiftsMoveBitsThroughC : Prop :=
  (∀ (n m : RegNo) (width : BitVec 3) (w2 : Word),
    decodeWords (packWord 0x8#4 n m 0xA#4) w2 = some (.sllRnRm n m) ∧
    decodeWords (packWord 0x9#4 n (0b0#1 ++ width) 0xA#4) w2 = some (.sllRnWidth n width) ∧
    decodeWords (packWord 0x8#4 n m 0xC#4) w2 = some (.srlRnRm n m) ∧
    decodeWords (packWord 0x9#4 n (0b0#1 ++ width) 0xC#4) w2 = some (.srlRnWidth n width)) ∧
  ∀ (s : State) (i : Instr) (n m : RegNo) (width : BitVec 3) (k v : Nat) (c : Bool),
    let x := (s.r n).toNat
    ((i = .sllRnRm n m ∧ k = (s.r m).toNat % 8 ∨ i = .sllRnWidth n width ∧ k = width.toNat) ∧
        v = x * 2 ^ k % 256 ∧ c = decide (x * 2 ^ k / 256 % 2 = 1) ∨
      (i = .srlRnRm n m ∧ k = (s.r m).toNat % 8 ∨ i = .srlRnWidth n width ∧ k = width.toNat) ∧
        v = x / 2 ^ k ∧ c = decide (x / 2 ^ (k - 1) % 2 = 1)) →
    ∃ t, exec i s = .next t ∧ FrameRegs s t 1 ∧ KeepsRegsBut s t n 1 ∧ (t.r n).toNat = v ∧
      PswIs t.psw (if k = 0 then getFlag s.psw .c else c) (getFlag s.psw .z) (getFlag s.psw .s)
        (getFlag s.psw .ov) (getFlag s.psw .mie) (getFlag s.psw .hc) (elevel s.psw)

/-- spec/41_shift.md R153, R154, R159, R160: SLLC and SRLC, with their encodings: the bits of the register
below (R15 for R0) or above (R0 for R15) come in, that register is only read, and C is not an
input. -/
def Obligations.ContinuedShiftsTakeBitsFromTheNeighbour : Prop :=
  (∀ (n m : RegNo) (width : BitVec 3) (w2 : Word),
    decodeWords (packWord 0x8#4 n m 0xB#4) w2 = some (.sllcRnRm n m) ∧
    decodeWords (packWord 0x9#4 n (0b0#1 ++ width) 0xB#4) w2 = some (.sllcRnWidth n width) ∧
    decodeWords (packWord 0x8#4 n m 0xD#4) w2 = some (.srlcRnRm n m) ∧
    decodeWords (packWord 0x9#4 n (0b0#1 ++ width) 0xD#4) w2 = some (.srlcRnWidth n width)) ∧
  ∀ (s : State) (i : Instr) (n m : RegNo) (width : BitVec 3) (k v : Nat) (c : Bool),
    let left := (s.r n).toNat * 256 + (s.r (n - 1)).toNat
    let right := (s.r (n + 1)).toNat * 256 + (s.r n).toNat
    ((i = .sllcRnRm n m ∧ k = (s.r m).toNat % 8 ∨ i = .sllcRnWidth n width ∧ k = width.toNat) ∧
        v = left * 2 ^ k / 256 % 256 ∧ c = decide (left * 2 ^ k / 65536 % 2 = 1) ∨
      (i = .srlcRnRm n m ∧ k = (s.r m).toNat % 8 ∨ i = .srlcRnWidth n width ∧ k = width.toNat) ∧
        v = right / 2 ^ k % 256 ∧ c = decide (right / 2 ^ (k - 1) % 2 = 1)) →
    ∃ t, exec i s = .next t ∧ FrameRegs s t 1 ∧ KeepsRegsBut s t n 1 ∧ (t.r n).toNat = v ∧
      PswIs t.psw (if k = 0 then getFlag s.psw .c else c) (getFlag s.psw .z) (getFlag s.psw .s)
        (getFlag s.psw .ov) (getFlag s.psw .mie) (getFlag s.psw .hc) (elevel s.psw)

/-- spec/41_shift.md R155, R156: SRA, with its encodings: the signed value divided by a power of two,
rounded down. -/
def Obligations.ArithmeticShiftDividesTheSignedValue : Prop :=
  (∀ (n m : RegNo) (width : BitVec 3) (w2 : Word),
    decodeWords (packWord 0x8#4 n m 0xE#4) w2 = some (.sraRnRm n m) ∧
    decodeWords (packWord 0x9#4 n (0b0#1 ++ width) 0xE#4) w2 = some (.sraRnWidth n width)) ∧
  ∀ (s : State) (i : Instr) (n m : RegNo) (width : BitVec 3) (k : Nat),
    (i = .sraRnRm n m ∧ k = (s.r m).toNat % 8 ∨ i = .sraRnWidth n width ∧ k = width.toNat) →
    ∃ t, exec i s = .next t ∧ FrameRegs s t 1 ∧ KeepsRegsBut s t n 1 ∧
      (t.r n).toInt = (s.r n).toInt / 2 ^ k ∧
      PswIs t.psw
        (if k = 0 then getFlag s.psw .c else decide ((s.r n).toNat / 2 ^ (k - 1) % 2 = 1))
        (getFlag s.psw .z) (getFlag s.psw .s)
        (getFlag s.psw .ov) (getFlag s.psw .mie) (getFlag s.psw .hc) (elevel s.psw)

/-! ## Data memory -/

/-- spec/42_load_store.md R165 to R168, with the spec's decision D10 (log 26): a DSR prefix word leaves its
segment in DSR, sets both latches and advances PC, and changes nothing else; right after another
prefix word it stops. -/
def Obligations.PrefixWordsSelectTheSegment : Prop :=
  ∀ (s : State) (i : Instr) (imm : Byte) (d : RegNo) (v : Byte),
    (i = .dsrPrefixSeg imm ∧ v = imm ∨ i = .dsrPrefixRd d ∧ v = s.r d ∨
      i = .dsrPrefixDsr ∧ v = s.dsr) →
    (s.dsrPrefix = true → exec i s = .refused .prefixAfterPrefix) ∧
    (s.dsrPrefix = false → ∃ t, exec i s = .next t ∧
      t = { s with dsr := v, dsrPrefix := true, intBlock := true, pc := s.nextPc 1 } ∧
      SameData s t)

/-- spec/42_load_store.md R168 to R192, spec/20_memory.md R60, R70, with the spec's decisions D3, D8, D10
and D18 (log 16, log 26, log 30, log 37): every form of L, prefixed or not: the bytes at the form's
address, bit 0 ignored above byte size, go to its registers, Z and S come from the whole value, EA
moves only in the `[EA+]` forms; a byte that is a device's is what the device gives, read once and
in ascending order. AR, which no instruction reads, is left open. -/
def Obligations.LoadsReadMemoryIntoRegisters : Prop :=
  ∀ (s : State) (i : Instr) (x : Access) (b : Nat → Byte), loadAccess i s = some x →
    let seg := if s.dsrPrefix then s.dsr else 0x00#8
    let base := alignedTo x.size x.addr
    ReadsBytes s seg base b (List.range x.size) →
    ∃ t, exec i s = .next t ∧ FrameLoad s t x.words ∧ t.cregs = s.cregs ∧ t.ea = x.eaAfter ∧
      t.deviceLog = s.deviceLog ++ readsSeen s.cfg seg base (List.range x.size) ∧
      KeepsRegsBut s t x.reg x.size ∧
      (∀ k < x.size, t.r (x.reg + BitVec.ofNat 4 k) = b k) ∧
      PswIs t.psw (getFlag s.psw .c) (decide (∀ k < x.size, b k = 0x00#8))
        (b (x.size - 1)).msb
        (getFlag s.psw .ov) (getFlag s.psw .mie) (getFlag s.psw .hc) (elevel s.psw)

/-- spec/42_load_store.md R168 to R174, R193 to R210, spec/20_memory.md R61, R70, with the spec's
decisions D3, D8, D10 and D18 (log 16, log 26, log 30, log 37): every form of ST, prefixed or not: its
registers go to the form's address, bit 0 ignored above byte size, each byte written once, in
ascending order, to RAM or to a device; no flag and no register changes, EA moves only in the `[EA+]`
forms, and every other byte of memory reads as before. -/
def Obligations.StoresWriteRegistersToMemory : Prop :=
  ∀ (s : State) (i : Instr) (x : Access), storeAccess i s = some x →
    let seg := if s.dsrPrefix then s.dsr else 0x00#8
    let base := alignedTo x.size x.addr
    WritableRange s seg base x.size →
    ∃ t, exec i s = .next t ∧ FrameStore s t x.words ∧ t.psw = s.psw ∧ t.ea = x.eaAfter ∧
      WritesBytes s t seg base (fun k => s.r (x.reg + BitVec.ofNat 4 k)) (List.range x.size)

/-- spec/20_memory.md R58 to R61, R70, with the spec's decisions D2, D3, D7, D8, D10, D11 and D18 (log 8,
log 9, log 16, log 17, log 26, log 30, log 37): a read in the ROM window gives the byte of code segment 0 at the same offset, elsewhere what
RAM or ROM holds or what the device gives. Every instruction that accesses data memory (L, ST, the
moves between memory and the coprocessor, SB, RB, TB, INC, DEC, PUSH and POP) stops at the first of
its byte accesses that the map forbids, under that access's own name: a store into the window or into
ROM, an unimplemented data address, absent code memory under the window; if the map forbids none, it
goes on. -/
def Obligations.ByteAccessesStopWhereTheMapSays : Prop :=
  (∀ (s : State) (seg : Byte) (off : Word),
    let addr := seg.toNat * 65536 + off.toNat
    (InWindow s seg off → codePresent s.cfg off.toNat = true →
      s.readByte seg off = .next (s.code.read off.toNat)) ∧
    (¬InWindow s seg off → dataKind s.cfg addr = some .ram ∨ dataKind s.cfg addr = some .rom →
      s.readByte seg off = .next (s.data.read addr)) ∧
    (¬InWindow s seg off → ∀ id, dataKind s.cfg addr = some (.device id) →
      s.readByte seg off = .next (Config.deviceRead id s.deviceLog addr))) ∧
  ∀ (s : State) (i : Instr),
    let seg := if s.dsrPrefix then s.dsr else 0x00#8
    (∀ x, loadAccess i s = some x ∨ coLoadAccess i s = some x →
      StopsOrGoesOn i s
        (firstStop (readStop s seg) (alignedTo x.size x.addr) (List.range x.size))) ∧
    (∀ x, storeAccess i s = some x ∨ coStoreAccess i s = some x →
      StopsOrGoesOn i s
        (firstStop (writeStop s seg) (alignedTo x.size x.addr) (List.range x.size))) ∧
    (∀ bit dadr, i = .sbDbitadr bit dadr ∨ i = .rbDbitadr bit dadr →
      StopsOrGoesOn i s ((readStop s seg dadr).or (writeStop s seg dadr))) ∧
    (∀ bit dadr, i = .tbDbitadr bit dadr → StopsOrGoesOn i s (readStop s seg dadr)) ∧
    (i = .incEa ∨ i = .decEa →
      StopsOrGoesOn i s ((readStop s seg s.ea).or (writeStop s seg s.ea))) ∧
    (s.dsrPrefix = false → s.sp.getLsbD 0 = false →
      (∀ n k, pushRegOf i = some (n, k) →
        StopsOrGoesOn i s (firstStop (writeStop s 0x00#8)
          (s.sp - BitVec.ofNat 16 (stackRoom k)) (pushRegOrder k))) ∧
      (∀ (x : StackList) (k : Bank), pushListOf i = some x →
        ((x.psw || x.pc) = true →
          elevel s.psw = k.level ∧ (k = .three → s.cfg.hasLevel3 = true)) →
        StopsOrGoesOn i s (firstStop (writeStop s 0x00#8)
          (s.sp - BitVec.ofNat 16 (x.size s)) (pushListOrder s x))) ∧
      (∀ n k, popRegOf i = some (n, k) →
        StopsOrGoesOn i s (firstStop (readStop s 0x00#8) s.sp (List.range k))) ∧
      ∀ x, popListOf i = some x →
        StopsOrGoesOn i s (firstStop (readStop s 0x00#8) s.sp (popListOrder s x)))

/-! ## Control registers -/

/-- spec/43_control_register.md R221, R226, R232: ADD SP, MOV ERn,SP and MOV SP,ERm, with their encodings:
all sixteen bits, modulo 2^16, no flag changed. -/
def Obligations.StackPointerInstructionsUseAllSixteenBits : Prop :=
  (∀ (n : RegNo) (imm : Byte) (w2 : Word), isWordReg n = true →
    decodeWords (packWord 0xE#4 0x1#4 (hiNibble imm) (loNibble imm)) w2 =
      some (.addSpSigned8 imm) ∧
    decodeWords (packWord 0xA#4 n 0x1#4 0xA#4) w2 = some (.movErnSp n) ∧
    decodeWords (packWord 0xA#4 0x1#4 n 0xA#4) w2 = some (.movSpErm n)) ∧
  ∀ (s : State) (n : RegNo) (imm : Byte),
    (∃ t, exec (.addSpSigned8 imm) s = .next t ∧
      t = { s with sp := t.sp, pc := s.nextPc 1, dsrPrefix := false, intBlock := false } ∧
      (t.sp.toNat : Int) = ((s.sp.toNat : Int) + imm.toInt) % 65536 ∧ SameData s t) ∧
    (∃ t, exec (.movErnSp n) s = .next t ∧ FrameRegs s t 1 ∧ t.psw = s.psw ∧
      KeepsRegsBut s t n 2 ∧ t.er n = s.sp) ∧
    (∃ t, exec (.movSpErm n) s = .next t ∧
      t = { s with sp := s.er n, pc := s.nextPc 1, dsrPrefix := false, intBlock := false } ∧
      SameData s t)

/-- spec/43_control_register.md R222 to R225, R229, R230, with the spec's decisions D12, D13 and D27
(log 18, log 19, log 20): at ELEVEL 0 ELR means LR, ECSR means LCSR, and the EPSW moves do nothing. In
the SMALL model LCSR reads 0 and is not written. -/
def Obligations.BackupMovesAtLevelZeroUseTheLinkRegisters : Prop :=
  ∀ (s : State) (n : RegNo), elevel s.psw = 0#2 →
    (∃ t, exec (.movElrErm n) s = .next t ∧
      t = { s with lr := s.er n &&& 0xFFFE#16, pc := s.nextPc 1, dsrPrefix := false,
                   intBlock := false } ∧ SameData s t) ∧
    (∃ t, exec (.movErnElr n) s = .next t ∧ FrameRegs s t 1 ∧ t.psw = s.psw ∧
      KeepsRegsBut s t n 2 ∧ t.er n = s.lr) ∧
    (∃ t, exec (.movEcsrRm n) s = .next t ∧
      t = { s with lcsr := if s.cfg.model = .large then (s.r n).extractLsb' 0 4 else s.lcsr,
                   pc := s.nextPc 1, dsrPrefix := false, intBlock := false } ∧ SameData s t) ∧
    (∃ t, exec (.movRnEcsr n) s = .next t ∧ FrameRegs { s with draws := t.draws } t 1 ∧
      t.psw = s.psw ∧ KeepsRegsBut s t n 1 ∧
      (t.r n).extractLsb' 0 4 = if s.cfg.model = .large then s.lcsr else 0x0#4) ∧
    (∃ t, exec (.movEpswRm n) s = .next t ∧
      t = { s with pc := s.nextPc 1, dsrPrefix := false, intBlock := false } ∧ SameData s t) ∧
    (∃ t, exec (.movRnEpsw n) s = .next t ∧
      t = { s with pc := s.nextPc 1, dsrPrefix := false, intBlock := false } ∧ SameData s t)

/-- spec/43_control_register.md R222 to R225, R229, R230, with the spec's decisions D12, D13 and D27: at
ELEVEL 1, 2 and, where the product has it, 3, the moves use the set of that level and leave the
other sets alone. -/
def Obligations.BackupMovesAtALevelUseItsSet : Prop :=
  ∀ (s : State) (n : RegNo) (k : Bank), elevel s.psw = k.level →
    (k = .three → s.cfg.hasLevel3 = true) →
    (∃ t, exec (.movElrErm n) s = .next t ∧ t.elr k = s.er n &&& 0xFFFE#16 ∧
      (∀ j, j ≠ k → t.elr j = s.elr j) ∧
      t = { s with elr1 := t.elr1, elr2 := t.elr2, elr3 := t.elr3, pc := s.nextPc 1,
                   dsrPrefix := false, intBlock := false } ∧ SameData s t) ∧
    (∃ t, exec (.movErnElr n) s = .next t ∧ FrameRegs s t 1 ∧ t.psw = s.psw ∧
      KeepsRegsBut s t n 2 ∧ t.er n = s.elr k) ∧
    (∃ t, exec (.movEcsrRm n) s = .next t ∧
      (s.cfg.model = .large → t.ecsr k = (s.r n).extractLsb' 0 4) ∧
      (s.cfg.model = .small → t.ecsr1 = s.ecsr1 ∧ t.ecsr2 = s.ecsr2 ∧ t.ecsr3 = s.ecsr3) ∧
      (∀ j, j ≠ k → t.ecsr j = s.ecsr j) ∧
      t = { s with ecsr1 := t.ecsr1, ecsr2 := t.ecsr2, ecsr3 := t.ecsr3, pc := s.nextPc 1,
                   dsrPrefix := false, intBlock := false } ∧ SameData s t) ∧
    (∃ t, exec (.movRnEcsr n) s = .next t ∧ FrameRegs { s with draws := t.draws } t 1 ∧
      t.psw = s.psw ∧ KeepsRegsBut s t n 1 ∧ (t.r n).extractLsb' 0 4 = s.ecsr k ∧
      (s.cfg.model = .small → (t.r n).extractLsb' 0 4 = 0x0#4)) ∧
    (∃ t, exec (.movEpswRm n) s = .next t ∧ t.epsw k = s.r n ∧
      (∀ j, j ≠ k → t.epsw j = s.epsw j) ∧
      t = { s with epsw1 := t.epsw1, epsw2 := t.epsw2, epsw3 := t.epsw3, pc := s.nextPc 1,
                   dsrPrefix := false, intBlock := false } ∧ SameData s t) ∧
    (∃ t, exec (.movRnEpsw n) s = .next t ∧ FrameRegs s t 1 ∧ t.psw = s.psw ∧
      KeepsRegsBut s t n 1 ∧ t.r n = s.epsw k)

/-- spec/43_control_register.md R227, R228, R231, with the spec's decision D17 (log 25): MOV PSW writes all
eight bits when it leaves ELEVEL alone or NOP is the next code word, and does not take MIE from 1 to
0; MOV Rn,PSW reads all eight and changes no flag. -/
def Obligations.MovPswWritesAllEightBits : Prop :=
  ∀ (s : State) (i : Instr) (m : RegNo) (v : Byte),
    (∃ t, exec (.movRnPsw m) s = .next t ∧ FrameRegs s t 1 ∧ t.psw = s.psw ∧
      KeepsRegsBut s t m 1 ∧ t.r m = s.psw) ∧
    ((i = .movPswRm m ∧ v = s.r m ∨ i = .movPswUnsigned8 v) →
      (elevel v = elevel s.psw ∨ s.codeRead16 s.codeSeg (s.nextPc 1) = .next 0xFE8F#16) →
      (getFlag s.psw .mie = true → getFlag v .mie = true) →
      ∃ t, exec i s = .next t ∧
        t = { s with psw := v, pc := s.nextPc 1, dsrPrefix := false, intBlock := false } ∧
        SameData s t)

/-- spec/43_control_register.md R227, spec/70_reset_and_hazards.md R421, R422, with the spec's decision D17
(log 25): MOV PSW changing ELEVEL with another code word next, and MOV PSW taking MIE from 1 to 0,
stop. -/
def Obligations.MovPswStopsOnItsTwoHazards : Prop :=
  ∀ (s : State) (i : Instr) (m : RegNo) (v : Byte) (next : Word),
    (i = .movPswRm m ∧ v = s.r m ∨ i = .movPswUnsigned8 v) →
    (elevel v ≠ elevel s.psw → s.codeRead16 s.codeSeg (s.nextPc 1) = .next next →
      next ≠ 0xFE8F#16 → exec i s = .refused .movPswWithoutNop) ∧
    (elevel v = elevel s.psw ∨ s.codeRead16 s.codeSeg (s.nextPc 1) = .next 0xFE8F#16 →
      getFlag s.psw .mie = true → getFlag v .mie = false → exec i s = .refused .movPswClearsMie)

/-- spec/10_state.md R21, with the spec's decision D4 (log 27): at ELEVEL 3 on a product without the
level-3 registers, every instruction that would read or write one stops. -/
def Obligations.LevelThreeRegistersAbsentStops : Prop :=
  ∀ (s : State) (i : Instr) (n : RegNo) (x : StackList), elevel s.psw = 3#2 →
    s.cfg.hasLevel3 = false →
    (i ∈ [.movElrErm n, .movErnElr n, .movEcsrRm n, .movRnEcsr n, .movEpswRm n, .movRnEpsw n,
        .rti] ∨
      pushListOf i = some x ∧ (x.psw || x.pc) = true ∧ s.dsrPrefix = false ∧
        s.sp.getLsbD 0 = false) →
    exec i s = .refused .level3Absent

/-! ## The stack -/

/-- spec/44_push_pop.md R240, R242 to R245, with the spec's decisions D3, D11, D12 and D18 (log 5,
log 17, log 30, log 37): PUSH of registers moves SP down by an even number of bytes and stores the registers from the
new SP upward, in ascending order; the byte above a single pushed byte is a free value, written
before it. No flag, no register and no other byte of memory changes. -/
def Obligations.PushStoresRegistersBelowTheStackPointer : Prop :=
  ∀ (s : State) (i : Instr) (n : RegNo) (k : Nat), pushRegOf i = some (n, k) →
    s.dsrPrefix = false → s.sp.getLsbD 0 = false →
    let base := s.sp - BitVec.ofNat 16 (stackRoom k)
    WritableRange s 0x00#8 base (stackRoom k) →
    ∃ t v, exec i s = .next t ∧ FramePush s t ∧ t.sp = base ∧
      (∀ j < k, v j = s.r (n + BitVec.ofNat 4 j)) ∧
      WritesBytes s t 0x00#8 base v (pushRegOrder k)

/-- spec/44_push_pop.md R240, R252 to R255, with the spec's decisions D3, D11 and D18 (log 17, log 30,
log 37): POP of registers loads them from SP upward and moves SP up by an even number of bytes; no flag and no other
register changes, and memory reads as before. -/
def Obligations.PopLoadsRegistersFromTheStackPointer : Prop :=
  ∀ (s : State) (i : Instr) (n : RegNo) (k : Nat) (b : Nat → Byte), popRegOf i = some (n, k) →
    s.dsrPrefix = false → s.sp.getLsbD 0 = false →
    ReadsBytes s 0x00#8 s.sp b (List.range k) →
    ∃ t, exec i s = .next t ∧
      t = { s with regs := t.regs, sp := s.sp + BitVec.ofNat 16 (stackRoom k), ar := t.ar,
                   deviceLog := s.deviceLog ++ readsSeen s.cfg 0x00#8 s.sp (List.range k),
                   pc := s.nextPc 1, dsrPrefix := false, intBlock := false } ∧
      KeepsRegsBut s t n k ∧ (∀ j < k, t.r (n + BitVec.ofNat 4 j) = b j) ∧ SameMemory s t

/-- spec/44_push_pop.md R246 to R250, with the spec's decisions D3, D11, D12, D18 and D22 (log 5,
log 17, log 27, log 30, log 37): all fifteen PUSH lists: in whatever order the list is written, ELR is pushed first
and lies highest, then EPSW, LR and EA, in the frames of the memory model; ELR and EPSW are those of
the current ELEVEL. -/
def Obligations.PushListsStoreTheirFramesInOrder : Prop :=
  ∀ (s : State) (i : Instr) (x : StackList) (k : Bank), pushListOf i = some x →
    s.dsrPrefix = false → s.sp.getLsbD 0 = false →
    ((x.psw || x.pc) = true → elevel s.psw = k.level ∧ (k = .three → s.cfg.hasLevel3 = true)) →
    let frame := pushFrame s x k
    let base := s.sp - BitVec.ofNat 16 frame.length
    WritableRange s 0x00#8 base frame.length →
    ∃ t v, exec i s = .next t ∧ FramePush s t ∧ t.sp = base ∧
      (∀ (j : Nat) (h : j < frame.length), frame[j].admits (v j)) ∧
      WritesBytes s t 0x00#8 base v (pushListOrder s x)

/-- spec/44_push_pop.md R251, with the spec's decisions D3, D11, D12, D13 and D18 (log 17, log 18,
log 19, log 30, log 37): all fifteen POP lists: EA, LR, PSW and PC are loaded in this order from SP upward, LCSR and
CSR with them in the LARGE model; dummy bytes are skipped; PC and LR take even values; without PC in
the list the next instruction follows. -/
def Obligations.PopListsLoadTheirFramesInOrder : Prop :=
  ∀ (s : State) (i : Instr) (x : StackList) (b : Nat → Byte), popListOf i = some x →
    s.dsrPrefix = false → s.sp.getLsbD 0 = false →
    let large : Bool := decide (s.cfg.model = .large)
    let atLr := x.lrAt
    let atPc := x.pcAt s
    ReadsBytes s 0x00#8 s.sp b (popListOrder s x) →
    ∃ t, exec i s = .next t ∧
      t = { s with ea := t.ea, lr := t.lr, lcsr := t.lcsr, psw := t.psw, csr := t.csr, pc := t.pc,
                   sp := s.sp + BitVec.ofNat 16 (x.size s), ar := t.ar,
                   deviceLog := s.deviceLog ++ readsSeen s.cfg 0x00#8 s.sp (popListOrder s x),
                   dsrPrefix := false, intBlock := false } ∧
      t.ea = (if x.ea then b 1 ++ b 0 else s.ea) ∧
      t.lr = (if x.lr then (b (atLr + 1) ++ b atLr) &&& 0xFFFE#16 else s.lr) ∧
      t.lcsr = (if x.lr && large then (b (atLr + 2)).extractLsb' 0 4 else s.lcsr) ∧
      t.psw = (if x.psw then b (x.pswAt s) else s.psw) ∧
      t.pc = (if x.pc then (b (atPc + 1) ++ b atPc) &&& 0xFFFE#16 else s.nextPc 1) ∧
      t.csr = (if x.pc && large then (b (atPc + 2)).extractLsb' 0 4 else s.csr) ∧
      SameMemory s t

/-- spec/44_push_pop.md R244, R251, R256, with the spec's decisions D11, D12 and D13 (log 17, log 18,
log 19): POP undoes PUSH on a stack that lies in no device: registers pushed and popped, into the
same or other registers of the size, come back with SP where it was; PUSH ELR,EPSW and then POP
PSW,PC returns to the address and the PSW the handler was entered from. -/
def Obligations.PopUndoesPush : Prop :=
  (∀ (s t : State) (i j : Instr) (n m : RegNo) (k : Nat), pushRegOf i = some (n, k) →
    popRegOf j = some (m, k) → exec i s = .next t →
    (∀ q < k, isDevice s.cfg 0x00#8 (t.sp + BitVec.ofNat 16 q) = false) →
    ∃ u, exec j t = .next u ∧ u.sp = s.sp ∧
      ∀ q < k, u.r (m + BitVec.ofNat 4 q) = s.r (n + BitVec.ofNat 4 q)) ∧
  ∀ (s t : State) (k : Bank), elevel s.psw = k.level → exec .pushElrEpsw s = .next t →
    (∀ q < (⟨false, true, true, false⟩ : StackList).size s,
      isDevice s.cfg 0x00#8 (t.sp + BitVec.ofNat 16 q) = false) →
    ∃ u, exec .popPswPc t = .next u ∧ u.sp = s.sp ∧ u.psw = s.epsw k ∧
      u.pc = s.elr k &&& 0xFFFE#16 ∧ (s.cfg.model = .large → u.csr = s.ecsr k)

/-- spec/44_push_pop.md R240, R241, R246 and spec/48_muldiv_misc.md R355, with the spec's decisions D10, D11
and D22 (log 17, log 26, log 27): every PUSH and POP stops right after a DSR prefix word and with an
odd SP; PUSH of ELR or EPSW and RTI stop at ELEVEL 0. -/
def Obligations.StackAndReturnStopWhereUndefined : Prop :=
  (∀ (s : State) (i : Instr), usesStack i = true →
    (s.dsrPrefix = true → exec i s = .refused .stackAfterPrefix) ∧
    (s.dsrPrefix = false → s.sp.getLsbD 0 = true → exec i s = .refused .oddStackPointer)) ∧
  ∀ (s : State) (i : Instr) (x : StackList), elevel s.psw = 0#2 →
    exec .rti s = .refused .rtiAtLevelZero ∧
    (pushListOf i = some x → (x.psw || x.pc) = true → s.dsrPrefix = false →
      s.sp.getLsbD 0 = false → exec i s = .refused .backupAtLevelZero)

/-! ## The coprocessor -/

/-- spec/45_coprocessor.md R261, R262, with the spec's decision D5 (log 31): the register moves copy one byte
and change no flag. -/
def Obligations.CoprocessorRegisterMovesCopyOneByte : Prop :=
  ∀ (s : State) (n m : RegNo),
    (∃ t, exec (.movCrnRm n m) s = .next t ∧
      t = { s with cregs := t.cregs, pc := s.nextPc 1, dsrPrefix := false, intBlock := false } ∧
      t.cr n = s.r m ∧ (∀ q, q ≠ n → t.cr q = s.cr q) ∧ SameData s t) ∧
    (∃ t, exec (.movRnCrm n m) s = .next t ∧ FrameRegs s t 1 ∧ t.psw = s.psw ∧
      KeepsRegsBut s t n 1 ∧ t.r n = s.cr m)

/-- spec/45_coprocessor.md R260, R263 to R270, with the spec's decisions D3, D5, D8, D10 and D18 (log 16,
log 26, log 30, log 31, log 37): every move from memory to coprocessor registers, prefixed or not,
each byte read once and in ascending order; no flag and no general register changes. -/
def Obligations.CoprocessorLoadsReadMemory : Prop :=
  ∀ (s : State) (i : Instr) (x : Access) (b : Nat → Byte), coLoadAccess i s = some x →
    let seg := if s.dsrPrefix then s.dsr else 0x00#8
    let base := alignedTo x.size x.addr
    ReadsBytes s seg base b (List.range x.size) →
    ∃ t, exec i s = .next t ∧ FrameLoad s t x.words ∧ t.regs = s.regs ∧ t.psw = s.psw ∧
      t.ea = x.eaAfter ∧
      t.deviceLog = s.deviceLog ++ readsSeen s.cfg seg base (List.range x.size) ∧
      (∀ q : RegNo, (∀ k < x.size, q ≠ x.reg + BitVec.ofNat 4 k) → t.cr q = s.cr q) ∧
      ∀ k < x.size, t.cr (x.reg + BitVec.ofNat 4 k) = b k

/-- spec/45_coprocessor.md R260, R271 to R278, with the spec's decisions D3, D5, D8, D10 and D18 (log 16,
log 26, log 30, log 31, log 37): every move from coprocessor registers to memory, prefixed or not,
each byte written once and in ascending order; no flag, no register and no other byte of memory
changes. -/
def Obligations.CoprocessorStoresWriteMemory : Prop :=
  ∀ (s : State) (i : Instr) (x : Access), coStoreAccess i s = some x →
    let seg := if s.dsrPrefix then s.dsr else 0x00#8
    let base := alignedTo x.size x.addr
    WritableRange s seg base x.size →
    ∃ t, exec i s = .next t ∧ FrameStore s t x.words ∧ t.psw = s.psw ∧ t.ea = x.eaAfter ∧
      WritesBytes s t seg base (fun k => s.cr (x.reg + BitVec.ofNat 4 k)) (List.range x.size)

/-! ## EA, decimal adjustment, bits, PSW access -/

/-- spec/46_ea_alu_bit_psw.md R290, R291, R292: LEA, with its encodings, loads EA with the address itself
and makes no memory access. -/
def Obligations.LeaLoadsTheAddressItself : Prop :=
  (∀ (m : RegNo) (w2 : Word), isWordReg m = true →
    decodeWords (packWord 0xF#4 0x0#4 m 0xA#4) w2 = some (.leaErm m) ∧
    decodeWords (packWord 0xF#4 0x0#4 m 0xB#4) w2 = some (.leaDisp16Erm m w2) ∧
    decodeWords (packWord 0xF#4 0x0#4 0x0#4 0xC#4) w2 = some (.leaDadr w2)) ∧
  ∀ (s : State) (i : Instr) (m : RegNo) (disp a : Word) (words : Nat),
    (i = .leaErm m ∧ a = s.er m ∧ words = 1 ∨
      i = .leaDisp16Erm m disp ∧ a.toNat = ((s.er m).toNat + disp.toNat) % 65536 ∧ words = 2 ∨
      i = .leaDadr a ∧ words = 2) →
    ∃ t, exec i s = .next t ∧
      t = { s with ea := a, pc := s.nextPc words, dsrPrefix := false, intBlock := false } ∧
      SameData s t

/-- spec/46_ea_alu_bit_psw.md R293, R294, with the spec's decision D30 on the flags (log 24): DAA adds and
DAS subtracts the adjustment of their tables, row by row (C, HC, the high digit between its bounds,
the low digit between its bounds; the adjustment; DAA's C after it), and set C, Z, S and HC. -/
def Obligations.DecimalAdjustmentsFollowTheirTables : Prop :=
  ∀ (s : State) (n : RegNo),
    let x := (s.r n).toNat
    let hi := x / 16
    let lo := x % 16
    let c := getFlag s.psw .c
    let hc := getFlag s.psw .hc
    (∀ adj c',
      (c = false ∧ hi ≤ 9 ∧ hc = false ∧ lo ≤ 9 ∧ adj = 0x00 ∧ c' = false ∨
        c = false ∧ hi ≤ 8 ∧ hc = false ∧ 10 ≤ lo ∧ adj = 0x06 ∧ c' = false ∨
        c = false ∧ hi ≤ 9 ∧ hc = true ∧ adj = 0x06 ∧ c' = false ∨
        c = false ∧ 10 ≤ hi ∧ hc = false ∧ lo ≤ 9 ∧ adj = 0x60 ∧ c' = true ∨
        c = false ∧ 9 ≤ hi ∧ hc = false ∧ 10 ≤ lo ∧ adj = 0x66 ∧ c' = true ∨
        c = false ∧ 10 ≤ hi ∧ hc = true ∧ adj = 0x66 ∧ c' = true ∨
        c = true ∧ hc = false ∧ lo ≤ 9 ∧ adj = 0x60 ∧ c' = true ∨
        c = true ∧ hc = false ∧ 10 ≤ lo ∧ adj = 0x66 ∧ c' = true ∨
        c = true ∧ hc = true ∧ adj = 0x66 ∧ c' = true) →
      ∃ t, exec (.daaRn n) s = .next t ∧ FrameRegs s t 1 ∧ KeepsRegsBut s t n 1 ∧
        (t.r n).toNat = (x + adj) % 256 ∧
        PswIs t.psw c' (decide ((x + adj) % 256 = 0)) (decide (128 ≤ (x + adj) % 256))
          (getFlag s.psw .ov) (getFlag s.psw .mie) (decide (16 ≤ lo + adj % 16))
          (elevel s.psw)) ∧
    (∀ adj,
      (c = false ∧ hi ≤ 9 ∧ hc = false ∧ lo ≤ 9 ∧ adj = 0x00 ∨
        c = false ∧ hi ≤ 9 ∧ hc = false ∧ 10 ≤ lo ∧ adj = 0x06 ∨
        c = false ∧ hi ≤ 9 ∧ hc = true ∧ adj = 0x06 ∨
        c = false ∧ 10 ≤ hi ∧ hc = false ∧ lo ≤ 9 ∧ adj = 0x60 ∨
        c = false ∧ 10 ≤ hi ∧ hc = true ∧ adj = 0x66 ∨
        c = false ∧ 10 ≤ hi ∧ hc = false ∧ 10 ≤ lo ∧ adj = 0x66 ∨
        c = true ∧ hc = false ∧ lo ≤ 9 ∧ adj = 0x60 ∨
        c = true ∧ hc = true ∧ adj = 0x66 ∨
        c = true ∧ hc = false ∧ 10 ≤ lo ∧ adj = 0x66) →
      ∃ t, exec (.dasRn n) s = .next t ∧ FrameRegs s t 1 ∧ KeepsRegsBut s t n 1 ∧
        (t.r n).toNat = (x + 256 - adj) % 256 ∧
        PswIs t.psw (c || decide (x < adj)) (decide ((x + 256 - adj) % 256 = 0))
          (decide (128 ≤ (x + 256 - adj) % 256)) (getFlag s.psw .ov) (getFlag s.psw .mie)
          (decide (lo < adj % 16)) (elevel s.psw))

/-- spec/46_ea_alu_bit_psw.md R296, R298, R300: SB, RB and TB on a register, with their encodings: Z is the
inverse of the bit before, SB sets it, RB clears it, TB leaves it, and no other bit or flag
changes. -/
def Obligations.RegisterBitInstructionsChangeOneBit : Prop :=
  (∀ (n : RegNo) (bit : BitVec 3) (w2 : Word),
    decodeWords (packWord 0xA#4 n (0b0#1 ++ bit) 0x0#4) w2 = some (.sbRnBit n bit) ∧
    decodeWords (packWord 0xA#4 n (0b0#1 ++ bit) 0x2#4) w2 = some (.rbRnBit n bit) ∧
    decodeWords (packWord 0xA#4 n (0b0#1 ++ bit) 0x1#4) w2 = some (.tbRnBit n bit)) ∧
  ∀ (s : State) (i : Instr) (n : RegNo) (bit : BitVec 3) (new : Bool),
    (i = .sbRnBit n bit ∧ new = true ∨ i = .rbRnBit n bit ∧ new = false ∨
      i = .tbRnBit n bit ∧ new = (s.r n).getLsbD bit.toNat) →
    ∃ t, exec i s = .next t ∧ FrameRegs s t 1 ∧ KeepsRegsBut s t n 1 ∧
      (t.r n).getLsbD bit.toNat = new ∧
      (∀ j, j ≠ bit.toNat → (t.r n).getLsbD j = (s.r n).getLsbD j) ∧
      PswIs t.psw (getFlag s.psw .c) (!(s.r n).getLsbD bit.toNat) (getFlag s.psw .s)
        (getFlag s.psw .ov) (getFlag s.psw .mie) (getFlag s.psw .hc) (elevel s.psw)

/-- spec/46_ea_alu_bit_psw.md R297, R299, R301, spec/20_memory.md R65, R70, with the spec's decisions D3
and D10 (log 26, log 37): SB, RB and TB on memory: as on a register, on the byte at Dadr, read once;
SB and RB write it once after the read; TB writes nothing, and needs the byte only readable. -/
def Obligations.MemoryBitInstructionsChangeOneBit : Prop :=
  ∀ (s : State) (i : Instr) (bit : BitVec 3) (dadr : Word) (v : Byte) (new writes : Bool),
    (i = .sbDbitadr bit dadr ∧ new = true ∧ writes = true ∨
      i = .rbDbitadr bit dadr ∧ new = false ∧ writes = true ∨
      i = .tbDbitadr bit dadr ∧ new = v.getLsbD bit.toNat ∧ writes = false) →
    let seg := if s.dsrPrefix then s.dsr else 0x00#8
    s.readByte seg dadr = .next v → (writes = true → Writable s seg dadr) →
    ∃ t v', exec i s = .next t ∧ FrameStore s t 2 ∧ t.ea = s.ea ∧ v'.getLsbD bit.toNat = new ∧
      (∀ j, j ≠ bit.toNat → v'.getLsbD j = v.getLsbD j) ∧
      WritesBytes (s.afterRead seg dadr) t seg dadr (fun _ => v') (if writes then [0] else []) ∧
      (writes = false → t.data = s.data) ∧
      PswIs t.psw (getFlag s.psw .c) (!v.getLsbD bit.toNat) (getFlag s.psw .s)
        (getFlag s.psw .ov) (getFlag s.psw .mie) (getFlag s.psw .hc) (elevel s.psw)

/-- spec/48_muldiv_misc.md R352, R353, spec/20_memory.md R65, R70, with the spec's decisions D3 and D10
(log 26, log 37): INC [EA] and DEC [EA] read the byte at EA once, write it once, changed by one,
modulo 256, and set Z, S, OV and HC; C and EA are kept. -/
def Obligations.IncAndDecChangeOneByte : Prop :=
  ∀ (s : State) (i : Instr) (v r : Byte) (ov hc : Bool),
    let seg := if s.dsrPrefix then s.dsr else 0x00#8
    (i = .incEa ∧ r.toNat = (v.toNat + 1) % 256 ∧ ov = decide (v = 0x7F#8) ∧
        hc = decide (v.toNat % 16 = 15) ∨
      i = .decEa ∧ r.toNat = (v.toNat + 255) % 256 ∧ ov = decide (v = 0x80#8) ∧
        hc = decide (v.toNat % 16 = 0)) →
    s.readByte seg s.ea = .next v → Writable s seg s.ea →
    ∃ t, exec i s = .next t ∧ FrameStore s t 1 ∧ t.ea = s.ea ∧
      WritesBytes (s.afterRead seg s.ea) t seg s.ea (fun _ => r) [0] ∧
      PswIs t.psw (getFlag s.psw .c) (decide (r = 0x00#8)) (decide (128 ≤ r.toNat)) ov
        (getFlag s.psw .mie) hc (elevel s.psw)

/-- spec/46_ea_alu_bit_psw.md R302 to R306, with the spec's decision D17 for EI (log 13): EI sets and DI
clears MIE, SC sets, RC clears and CPLC inverts C; nothing else changes but, for EI, the model's
window. -/
def Obligations.PswInstructionsChangeOneFlag : Prop :=
  ∀ (s : State) (i : Instr) (f : Flag) (v : Bool) (window : Nat),
    (i = .ei ∧ f = .mie ∧ v = true ∧ window = 2 ∨
      i = .di ∧ f = .mie ∧ v = false ∧ window = s.eiWindow ∨
      i = .sc ∧ f = .c ∧ v = true ∧ window = s.eiWindow ∨
      i = .rc ∧ f = .c ∧ v = false ∧ window = s.eiWindow ∨
      i = .cplc ∧ f = .c ∧ v = !getFlag s.psw .c ∧ window = s.eiWindow) →
    ∃ t, exec i s = .next t ∧
      t = { s with psw := t.psw, eiWindow := window, pc := s.nextPc 1, dsrPrefix := false,
                   intBlock := false } ∧
      getFlag t.psw f = v ∧ (∀ g, g ≠ f → getFlag t.psw g = getFlag s.psw g) ∧
      elevel t.psw = elevel s.psw ∧ SameData s t

/-! ## Control flow -/

/-- spec/47_branch_swi.md R320, R321: each conditional branch, with its encoding, goes to NextPC plus twice
its signed field when its condition is true and to NextPC when it is not, modulo 2^16 and in the same
segment; no flag changes. -/
def Obligations.ConditionalBranchesFollowTheConditionTable : Prop :=
  ∀ (s : State) (i : Instr) (radr : Byte) (cccc : Nibble) (taken : Bool),
    let c := getFlag s.psw .c
    let z := getFlag s.psw .z
    let sf := getFlag s.psw .s
    let ov := getFlag s.psw .ov
    (i = .bge radr ∧ cccc = 0x0#4 ∧ taken = !c ∨ i = .blt radr ∧ cccc = 0x1#4 ∧ taken = c ∨
      i = .bgt radr ∧ cccc = 0x2#4 ∧ taken = (!c && !z) ∨
      i = .ble radr ∧ cccc = 0x3#4 ∧ taken = (z || c) ∨
      i = .bges radr ∧ cccc = 0x4#4 ∧ taken = (ov == sf) ∨
      i = .blts radr ∧ cccc = 0x5#4 ∧ taken = (ov != sf) ∨
      i = .bgts radr ∧ cccc = 0x6#4 ∧ taken = ((ov == sf) && !z) ∨
      i = .bles radr ∧ cccc = 0x7#4 ∧ taken = ((ov != sf) || z) ∨
      i = .bne radr ∧ cccc = 0x8#4 ∧ taken = !z ∨ i = .beq radr ∧ cccc = 0x9#4 ∧ taken = z ∨
      i = .bnv radr ∧ cccc = 0xA#4 ∧ taken = !ov ∨ i = .bov radr ∧ cccc = 0xB#4 ∧ taken = ov ∨
      i = .bps radr ∧ cccc = 0xC#4 ∧ taken = !sf ∨ i = .bns radr ∧ cccc = 0xD#4 ∧ taken = sf ∨
      i = .bal radr ∧ cccc = 0xE#4 ∧ taken = true) →
    (∀ w2, decodeWords (packWord 0xC#4 cccc (hiNibble radr) (loNibble radr)) w2 = some i) ∧
    (∀ w2, decodeWords (packWord 0xC#4 0xF#4 (hiNibble radr) (loNibble radr)) w2 = none) ∧
    ∃ t, exec i s = .next t ∧
      t = { s with pc := t.pc, dsrPrefix := false, intBlock := false } ∧
      (s.pc.getLsbD 0 = false → (t.pc.toNat : Int) =
        ((s.pc.toNat : Int) + 2 + if taken then 2 * radr.toInt else 0) % 65536) ∧
      SameData s t

/-- spec/47_branch_swi.md R322: EXTBW of each word register, with its encoding: the upper byte is filled
with bit 7 of the lower, Z and S come from the lower byte, the lower byte is kept; the words whose two
register fields disagree are not listed. -/
def Obligations.ExtbwExtendsTheSign : Prop :=
  ∀ (s : State) (i : Instr) (n : RegNo),
    (i = .extbwEr0 ∧ n = 0#4 ∨ i = .extbwEr2 ∧ n = 2#4 ∨ i = .extbwEr4 ∧ n = 4#4 ∨
      i = .extbwEr6 ∧ n = 6#4 ∨ i = .extbwEr8 ∧ n = 8#4 ∨ i = .extbwEr10 ∧ n = 10#4 ∨
      i = .extbwEr12 ∧ n = 12#4 ∨ i = .extbwEr14 ∧ n = 14#4) →
    (∀ w2, decodeWords (packWord 0x8#4 (n + 1) n 0xF#4) w2 = some i) ∧
    (∀ (b c : Nibble) (w2 : Word), b.getLsbD 0 = true → c.getLsbD 0 = false → b ≠ c + 1 →
      decodeWords (packWord 0x8#4 b c 0xF#4) w2 = none) ∧
    ∃ t, exec i s = .next t ∧ FrameRegs s t 1 ∧ KeepsRegsBut s t (n + 1) 1 ∧
      (t.er n).toInt = (s.r n).toInt ∧
      PswIs t.psw (getFlag s.psw .c) (decide (s.r n = 0x00#8)) (s.r n).msb
        (getFlag s.psw .ov) (getFlag s.psw .mie) (getFlag s.psw .hc) (elevel s.psw)

/-- spec/47_branch_swi.md R323, spec/60_exceptions.md R378, with the spec's decisions D23 and D27 (log 20,
log 28): SWI #snum at any ELEVEL: the address of the next instruction, CSR and PSW saved in set 1,
ELEVEL 1, MIE cleared, CSR 0, PC from 0080H + 2 * snum, interrupts blocked for one instruction. -/
def Obligations.SwiTakesTheSoftwareInterrupt : Prop :=
  ∀ (s : State) (snum : BitVec 6) (w : Word),
    s.codeRead16 0x0#4 (BitVec.ofNat 16 (0x0080 + 2 * snum.toNat)) = .next w →
    ∃ t, exec (.swi snum) s = .next t ∧
      t = { s with elr1 := s.nextPc 1, ecsr1 := t.ecsr1, epsw1 := s.psw, psw := t.psw,
                   csr := t.csr, pc := w &&& 0xFFFE#16, dsrPrefix := false, intBlock := true } ∧
      (s.cfg.model = .large → t.ecsr1 = s.csr ∧ t.csr = 0x0#4) ∧
      (s.cfg.model = .small → t.ecsr1 = s.ecsr1 ∧ t.csr = s.csr) ∧
      elevel t.psw = 1#2 ∧ getFlag t.psw .mie = false ∧
      (∀ f, f ≠ .mie → getFlag t.psw f = getFlag s.psw f) ∧ SameData s t

/-- spec/47_branch_swi.md R324, spec/60_exceptions.md R380, with the spec's decisions D24, D25 and D27 (log 6,
log 20, log 29): BRK at ELEVEL 0 and 1 is taken through set 2 and vector 0004H with MIE kept; at
ELEVEL 2 and 3 it performs the reset sequence. Data and code memory read as before the reset: the
model's reading (log 7). The devices see the reset (log 37). -/
def Obligations.BrkTakesItsVectorOrResets : Prop :=
  ∀ (s : State) (w spw pcw : Word),
    (elevel s.psw ≤ 1#2 → s.codeRead16 0x0#4 0x0004#16 = .next w →
      ∃ t, exec .brk s = .next t ∧
        t = { s with elr2 := s.nextPc 1, ecsr2 := t.ecsr2, epsw2 := s.psw, psw := t.psw,
                     csr := t.csr, pc := w &&& 0xFFFE#16, dsrPrefix := false,
                     intBlock := true } ∧
        (s.cfg.model = .large → t.ecsr2 = s.csr ∧ t.csr = 0x0#4) ∧
        (s.cfg.model = .small → t.ecsr2 = s.ecsr2 ∧ t.csr = s.csr) ∧
        elevel t.psw = 2#2 ∧ (∀ f, getFlag t.psw f = getFlag s.psw f) ∧ SameData s t) ∧
    (2#2 ≤ elevel s.psw → s.codeRead16 0x0#4 0x0000#16 = .next spw →
      s.codeRead16 0x0#4 0x0002#16 = .next pcw →
      ∃ t, exec .brk s = .next t ∧ t.psw = 0x00#8 ∧ t.csr = 0x0#4 ∧ t.dsr = 0x00#8 ∧
        t.sp = spw ∧ t.pc = pcw &&& 0xFFFE#16 ∧ t.dsrPrefix = false ∧ t.intBlock = true ∧
        t.cfg = s.cfg ∧ t.code = s.code ∧ SameMemory s t ∧
        t.deviceLog = s.deviceLog ++ [.reset])

/-- spec/47_branch_swi.md R325 to R328, spec/48_muldiv_misc.md R354, R356, with the spec's decision D27
(log 20): B, BL and RT: where PC and CSR go, what BL leaves in LR and LCSR, and that nothing else
changes; in the SMALL model no segment register takes a value. NOP changes PC alone. -/
def Obligations.BranchesCallsAndReturnMoveControl : Prop :=
  ∀ (s : State) (g : Nibble) (cadr : Word) (n : RegNo),
    let seg := fun old v : Nibble => if s.cfg.model = .large then v else old
    (∃ t, exec (.bCadr g cadr) s = .next t ∧
      t = { s with csr := seg s.csr g, pc := cadr &&& 0xFFFE#16, dsrPrefix := false,
                   intBlock := false } ∧ SameData s t) ∧
    (∃ t, exec (.bErn n) s = .next t ∧
      t = { s with pc := s.er n &&& 0xFFFE#16, dsrPrefix := false, intBlock := false } ∧
      SameData s t) ∧
    (∃ t, exec (.blCadr g cadr) s = .next t ∧
      t = { s with lr := s.nextPc 2, lcsr := seg s.lcsr s.csr, csr := seg s.csr g,
                   pc := cadr &&& 0xFFFE#16, dsrPrefix := false, intBlock := false } ∧
      SameData s t) ∧
    (∃ t, exec (.blErn n) s = .next t ∧
      t = { s with lr := s.nextPc 1, lcsr := seg s.lcsr s.csr, pc := s.er n &&& 0xFFFE#16,
                   dsrPrefix := false, intBlock := false } ∧ SameData s t) ∧
    (∃ t, exec .rt s = .next t ∧
      t = { s with csr := seg s.csr s.lcsr, pc := s.lr &&& 0xFFFE#16, dsrPrefix := false,
                   intBlock := false } ∧ SameData s t) ∧
    ∃ t, exec .nop s = .next t ∧
      t = { s with pc := s.nextPc 1, dsrPrefix := false, intBlock := false } ∧ SameData s t

/-- spec/48_muldiv_misc.md R355, spec/60_exceptions.md R382, with the spec's decisions D4 and D27 (log 20,
log 27): RTI restores CSR, PC and all eight PSW bits from the set of the current ELEVEL and changes
nothing else. -/
def Obligations.RtiRestoresTheInterruptedProgram : Prop :=
  ∀ (s : State) (k : Bank), elevel s.psw = k.level → (k = .three → s.cfg.hasLevel3 = true) →
    ∃ t, exec .rti s = .next t ∧
      t = { s with csr := if s.cfg.model = .large then s.ecsr k else s.csr, psw := s.epsw k,
                   pc := s.elr k &&& 0xFFFE#16, dsrPrefix := false, intBlock := false } ∧
      SameData s t

/-- spec/60_exceptions.md R376, R382, R384, with the spec's decision D27 on the SMALL model (log 20):
RTI undoes the entry: taking a maskable or non-maskable
interrupt and returning at once leaves PC, CSR and the PSW as they were. -/
def Obligations.RtiUndoesTheEntry : Prop :=
  ∀ (s t : State) (k : Bank) (vector : Word) (clearMie : Bool), Inv s → s.hasBank k = true →
    enterException s k s.pc vector clearMie = .next t →
    ∃ u, exec .rti t = .next u ∧ u.pc = s.pc ∧ u.csr = s.csr ∧ u.psw = s.psw ∧
      u.regs = s.regs ∧ u.sp = s.sp ∧ u.ea = s.ea ∧ u.dsr = s.dsr ∧ u.lr = s.lr ∧
      u.lcsr = s.lcsr ∧ SameData s u

/-! ## Multiplication and division -/

/-- spec/48_muldiv_misc.md R350, with the spec's decision D16 (log 22): MUL: the 16-bit unsigned product of
the low byte of the pair and Rm, Z from it, every other flag kept. -/
def Obligations.MulGivesTheUnsignedProduct : Prop :=
  ∀ (s : State) (n m : RegNo),
    let p := (s.r n).toNat * (s.r m).toNat
    ∃ t, exec (.mulErnRm n m) s = .next t ∧ FrameRegs s t 1 ∧ KeepsRegsBut s t n 2 ∧
      (t.er n).toNat = p ∧
      PswIs t.psw (getFlag s.psw .c) (decide (p = 0)) (getFlag s.psw .s)
        (getFlag s.psw .ov) (getFlag s.psw .mie) (getFlag s.psw .hc) (elevel s.psw)

/-- spec/48_muldiv_misc.md R351, with the spec's decisions D14, D15 and D16 (log 22, log 23): DIV: quotient
and remainder of the unsigned division, C 0, Z 1 for a zero dividend and 0 for a nonzero quotient; a
zero divisor completes with C 1 and leaves both registers and Z free; a divisor inside the dividend
register stops. -/
def Obligations.DivGivesQuotientAndRemainder : Prop :=
  ∀ (s : State) (n m : RegNo),
    let a := (s.er n).toNat
    let d := (s.r m).toNat
    (m = n ∨ m = n + 1 → exec (.divErnRm n m) s = .refused .divOverlap) ∧
    (m ≠ n → m ≠ n + 1 → ∃ t, exec (.divErnRm n m) s = .next t ∧
      FrameRegs { s with draws := t.draws } t 1 ∧
      (∀ q, q ≠ n → q ≠ n + 1 → q ≠ m → t.r q = s.r q) ∧
      getFlag t.psw .c = decide (d = 0) ∧
      (∀ f, f ≠ .c → f ≠ .z → getFlag t.psw f = getFlag s.psw f) ∧
      elevel t.psw = elevel s.psw ∧
      (d ≠ 0 → (t.er n).toNat = a / d ∧ (t.r m).toNat = a % d ∧
        (a = 0 → getFlag t.psw .z = true) ∧ (a / d ≠ 0 → getFlag t.psw .z = false)))

/-! ## The whole machine -/

/-- spec/10_state.md R17, R26, R33, spec/20_memory.md R51: no instruction writes the parameters or code
memory of segment 0; only B Cadr, BL Cadr, RT, RTI, POP with PC, SWI and BRK change CSR; only the
loading prefix words and BRK change DSR. -/
def Obligations.OnlyListedInstructionsChangeTheSegments : Prop :=
  ∀ (s t : State) (i : Instr), exec i s = .next t →
    t.cfg = s.cfg ∧ t.code = s.code ∧
    (t.csr ≠ s.csr → (∃ g c, i = .bCadr g c ∨ i = .blCadr g c) ∨
      (∃ x, popListOf i = some x ∧ x.pc = true) ∨ (∃ k, i = .swi k) ∨ i ∈ [.rt, .rti, .brk]) ∧
    (t.dsr ≠ s.dsr → (∃ v, i = .dsrPrefixSeg v) ∨ (∃ d, i = .dsrPrefixRd d) ∨ i = .brk)

/-- spec/60_exceptions.md R370, R400, with the spec's decision D25 for BRK (log 29): the latches after an instruction: a prefix word sets both, SWI and BRK
clear the prefix latch and set the blocking latch, every other instruction clears both, at every
ELEVEL. -/
def Obligations.LatchesAfterAnInstruction : Prop :=
  ∀ (s t : State) (i : Instr), exec i s = .next t →
    t.dsrPrefix = isPrefixWord i ∧
    t.intBlock = (isPrefixWord i || decide (i = .brk) ||
      match i with | .swi _ => true | _ => false)
end

