-- ==== Sys2Proof/Laws/State.lean ====
section
/-! SUPPORT. One lemma per field per update of the state, so that no proof unfolds a record update. -/

namespace Sys2Proof.Machine

/-! ## setR -/

@[simp] theorem setR_cfg (s : State) (n : RegNo) (v : Byte) : (s.setR n v).cfg = s.cfg := rfl
@[simp] theorem setR_regs (s : State) (n : RegNo) (v : Byte) :
    (s.setR n v).regs = s.regs.set n.toNat v n.isLt := rfl
@[simp] theorem setR_cregs (s : State) (n : RegNo) (v : Byte) : (s.setR n v).cregs = s.cregs := rfl
@[simp] theorem setR_psw (s : State) (n : RegNo) (v : Byte) : (s.setR n v).psw = s.psw := rfl
@[simp] theorem setR_pc (s : State) (n : RegNo) (v : Byte) : (s.setR n v).pc = s.pc := rfl
@[simp] theorem setR_csr (s : State) (n : RegNo) (v : Byte) : (s.setR n v).csr = s.csr := rfl
@[simp] theorem setR_lr (s : State) (n : RegNo) (v : Byte) : (s.setR n v).lr = s.lr := rfl
@[simp] theorem setR_lcsr (s : State) (n : RegNo) (v : Byte) : (s.setR n v).lcsr = s.lcsr := rfl
@[simp] theorem setR_elr1 (s : State) (n : RegNo) (v : Byte) : (s.setR n v).elr1 = s.elr1 := rfl
@[simp] theorem setR_elr2 (s : State) (n : RegNo) (v : Byte) : (s.setR n v).elr2 = s.elr2 := rfl
@[simp] theorem setR_elr3 (s : State) (n : RegNo) (v : Byte) : (s.setR n v).elr3 = s.elr3 := rfl
@[simp] theorem setR_ecsr1 (s : State) (n : RegNo) (v : Byte) : (s.setR n v).ecsr1 = s.ecsr1 := rfl
@[simp] theorem setR_ecsr2 (s : State) (n : RegNo) (v : Byte) : (s.setR n v).ecsr2 = s.ecsr2 := rfl
@[simp] theorem setR_ecsr3 (s : State) (n : RegNo) (v : Byte) : (s.setR n v).ecsr3 = s.ecsr3 := rfl
@[simp] theorem setR_epsw1 (s : State) (n : RegNo) (v : Byte) : (s.setR n v).epsw1 = s.epsw1 := rfl
@[simp] theorem setR_epsw2 (s : State) (n : RegNo) (v : Byte) : (s.setR n v).epsw2 = s.epsw2 := rfl
@[simp] theorem setR_epsw3 (s : State) (n : RegNo) (v : Byte) : (s.setR n v).epsw3 = s.epsw3 := rfl
@[simp] theorem setR_sp (s : State) (n : RegNo) (v : Byte) : (s.setR n v).sp = s.sp := rfl
@[simp] theorem setR_ea (s : State) (n : RegNo) (v : Byte) : (s.setR n v).ea = s.ea := rfl
@[simp] theorem setR_ar (s : State) (n : RegNo) (v : Byte) : (s.setR n v).ar = s.ar := rfl
@[simp] theorem setR_dsr (s : State) (n : RegNo) (v : Byte) : (s.setR n v).dsr = s.dsr := rfl
@[simp] theorem setR_dsrPrefix (s : State) (n : RegNo) (v : Byte) :
    (s.setR n v).dsrPrefix = s.dsrPrefix := rfl
@[simp] theorem setR_intBlock (s : State) (n : RegNo) (v : Byte) :
    (s.setR n v).intBlock = s.intBlock := rfl
@[simp] theorem setR_eiWindow (s : State) (n : RegNo) (v : Byte) :
    (s.setR n v).eiWindow = s.eiWindow := rfl
@[simp] theorem setR_code (s : State) (n : RegNo) (v : Byte) : (s.setR n v).code = s.code := rfl
@[simp] theorem setR_data (s : State) (n : RegNo) (v : Byte) : (s.setR n v).data = s.data := rfl
@[simp] theorem setR_deviceLog (s : State) (n : RegNo) (v : Byte) :
    (s.setR n v).deviceLog = s.deviceLog := rfl
@[simp] theorem setR_inputs (s : State) (n : RegNo) (v : Byte) :
    (s.setR n v).inputs = s.inputs := rfl
@[simp] theorem setR_ack (s : State) (n : RegNo) (v : Byte) : (s.setR n v).ack = s.ack := rfl
@[simp] theorem setR_draws (s : State) (n : RegNo) (v : Byte) : (s.setR n v).draws = s.draws := rfl

/-! ## setEr -/

@[simp] theorem setEr_cfg (s : State) (n : RegNo) (v : Word) : (s.setEr n v).cfg = s.cfg := rfl
@[simp] theorem setEr_cregs (s : State) (n : RegNo) (v : Word) :
    (s.setEr n v).cregs = s.cregs := rfl
@[simp] theorem setEr_psw (s : State) (n : RegNo) (v : Word) : (s.setEr n v).psw = s.psw := rfl
@[simp] theorem setEr_pc (s : State) (n : RegNo) (v : Word) : (s.setEr n v).pc = s.pc := rfl
@[simp] theorem setEr_csr (s : State) (n : RegNo) (v : Word) : (s.setEr n v).csr = s.csr := rfl
@[simp] theorem setEr_lr (s : State) (n : RegNo) (v : Word) : (s.setEr n v).lr = s.lr := rfl
@[simp] theorem setEr_lcsr (s : State) (n : RegNo) (v : Word) : (s.setEr n v).lcsr = s.lcsr := rfl
@[simp] theorem setEr_elr1 (s : State) (n : RegNo) (v : Word) : (s.setEr n v).elr1 = s.elr1 := rfl
@[simp] theorem setEr_elr2 (s : State) (n : RegNo) (v : Word) : (s.setEr n v).elr2 = s.elr2 := rfl
@[simp] theorem setEr_elr3 (s : State) (n : RegNo) (v : Word) : (s.setEr n v).elr3 = s.elr3 := rfl
@[simp] theorem setEr_ecsr1 (s : State) (n : RegNo) (v : Word) :
    (s.setEr n v).ecsr1 = s.ecsr1 := rfl
@[simp] theorem setEr_ecsr2 (s : State) (n : RegNo) (v : Word) :
    (s.setEr n v).ecsr2 = s.ecsr2 := rfl
@[simp] theorem setEr_ecsr3 (s : State) (n : RegNo) (v : Word) :
    (s.setEr n v).ecsr3 = s.ecsr3 := rfl
@[simp] theorem setEr_epsw1 (s : State) (n : RegNo) (v : Word) :
    (s.setEr n v).epsw1 = s.epsw1 := rfl
@[simp] theorem setEr_epsw2 (s : State) (n : RegNo) (v : Word) :
    (s.setEr n v).epsw2 = s.epsw2 := rfl
@[simp] theorem setEr_epsw3 (s : State) (n : RegNo) (v : Word) :
    (s.setEr n v).epsw3 = s.epsw3 := rfl
@[simp] theorem setEr_sp (s : State) (n : RegNo) (v : Word) : (s.setEr n v).sp = s.sp := rfl
@[simp] theorem setEr_ea (s : State) (n : RegNo) (v : Word) : (s.setEr n v).ea = s.ea := rfl
@[simp] theorem setEr_ar (s : State) (n : RegNo) (v : Word) : (s.setEr n v).ar = s.ar := rfl
@[simp] theorem setEr_dsr (s : State) (n : RegNo) (v : Word) : (s.setEr n v).dsr = s.dsr := rfl
@[simp] theorem setEr_dsrPrefix (s : State) (n : RegNo) (v : Word) :
    (s.setEr n v).dsrPrefix = s.dsrPrefix := rfl
@[simp] theorem setEr_intBlock (s : State) (n : RegNo) (v : Word) :
    (s.setEr n v).intBlock = s.intBlock := rfl
@[simp] theorem setEr_eiWindow (s : State) (n : RegNo) (v : Word) :
    (s.setEr n v).eiWindow = s.eiWindow := rfl
@[simp] theorem setEr_code (s : State) (n : RegNo) (v : Word) : (s.setEr n v).code = s.code := rfl
@[simp] theorem setEr_data (s : State) (n : RegNo) (v : Word) : (s.setEr n v).data = s.data := rfl
@[simp] theorem setEr_deviceLog (s : State) (n : RegNo) (v : Word) :
    (s.setEr n v).deviceLog = s.deviceLog := rfl
@[simp] theorem setEr_inputs (s : State) (n : RegNo) (v : Word) :
    (s.setEr n v).inputs = s.inputs := rfl
@[simp] theorem setEr_ack (s : State) (n : RegNo) (v : Word) : (s.setEr n v).ack = s.ack := rfl
@[simp] theorem setEr_draws (s : State) (n : RegNo) (v : Word) :
    (s.setEr n v).draws = s.draws := rfl

/-! ## setCr -/

@[simp] theorem setCr_cfg (s : State) (n : RegNo) (v : Byte) : (s.setCr n v).cfg = s.cfg := rfl
@[simp] theorem setCr_regs (s : State) (n : RegNo) (v : Byte) : (s.setCr n v).regs = s.regs := rfl
@[simp] theorem setCr_cregs (s : State) (n : RegNo) (v : Byte) :
    (s.setCr n v).cregs = s.cregs.set n.toNat v n.isLt := rfl
@[simp] theorem setCr_psw (s : State) (n : RegNo) (v : Byte) : (s.setCr n v).psw = s.psw := rfl
@[simp] theorem setCr_pc (s : State) (n : RegNo) (v : Byte) : (s.setCr n v).pc = s.pc := rfl
@[simp] theorem setCr_csr (s : State) (n : RegNo) (v : Byte) : (s.setCr n v).csr = s.csr := rfl
@[simp] theorem setCr_lr (s : State) (n : RegNo) (v : Byte) : (s.setCr n v).lr = s.lr := rfl
@[simp] theorem setCr_lcsr (s : State) (n : RegNo) (v : Byte) : (s.setCr n v).lcsr = s.lcsr := rfl
@[simp] theorem setCr_elr1 (s : State) (n : RegNo) (v : Byte) : (s.setCr n v).elr1 = s.elr1 := rfl
@[simp] theorem setCr_elr2 (s : State) (n : RegNo) (v : Byte) : (s.setCr n v).elr2 = s.elr2 := rfl
@[simp] theorem setCr_elr3 (s : State) (n : RegNo) (v : Byte) : (s.setCr n v).elr3 = s.elr3 := rfl
@[simp] theorem setCr_ecsr1 (s : State) (n : RegNo) (v : Byte) :
    (s.setCr n v).ecsr1 = s.ecsr1 := rfl
@[simp] theorem setCr_ecsr2 (s : State) (n : RegNo) (v : Byte) :
    (s.setCr n v).ecsr2 = s.ecsr2 := rfl
@[simp] theorem setCr_ecsr3 (s : State) (n : RegNo) (v : Byte) :
    (s.setCr n v).ecsr3 = s.ecsr3 := rfl
@[simp] theorem setCr_epsw1 (s : State) (n : RegNo) (v : Byte) :
    (s.setCr n v).epsw1 = s.epsw1 := rfl
@[simp] theorem setCr_epsw2 (s : State) (n : RegNo) (v : Byte) :
    (s.setCr n v).epsw2 = s.epsw2 := rfl
@[simp] theorem setCr_epsw3 (s : State) (n : RegNo) (v : Byte) :
    (s.setCr n v).epsw3 = s.epsw3 := rfl
@[simp] theorem setCr_sp (s : State) (n : RegNo) (v : Byte) : (s.setCr n v).sp = s.sp := rfl
@[simp] theorem setCr_ea (s : State) (n : RegNo) (v : Byte) : (s.setCr n v).ea = s.ea := rfl
@[simp] theorem setCr_ar (s : State) (n : RegNo) (v : Byte) : (s.setCr n v).ar = s.ar := rfl
@[simp] theorem setCr_dsr (s : State) (n : RegNo) (v : Byte) : (s.setCr n v).dsr = s.dsr := rfl
@[simp] theorem setCr_dsrPrefix (s : State) (n : RegNo) (v : Byte) :
    (s.setCr n v).dsrPrefix = s.dsrPrefix := rfl
@[simp] theorem setCr_intBlock (s : State) (n : RegNo) (v : Byte) :
    (s.setCr n v).intBlock = s.intBlock := rfl
@[simp] theorem setCr_eiWindow (s : State) (n : RegNo) (v : Byte) :
    (s.setCr n v).eiWindow = s.eiWindow := rfl
@[simp] theorem setCr_code (s : State) (n : RegNo) (v : Byte) : (s.setCr n v).code = s.code := rfl
@[simp] theorem setCr_data (s : State) (n : RegNo) (v : Byte) : (s.setCr n v).data = s.data := rfl
@[simp] theorem setCr_deviceLog (s : State) (n : RegNo) (v : Byte) :
    (s.setCr n v).deviceLog = s.deviceLog := rfl
@[simp] theorem setCr_inputs (s : State) (n : RegNo) (v : Byte) :
    (s.setCr n v).inputs = s.inputs := rfl
@[simp] theorem setCr_ack (s : State) (n : RegNo) (v : Byte) : (s.setCr n v).ack = s.ack := rfl
@[simp] theorem setCr_draws (s : State) (n : RegNo) (v : Byte) :
    (s.setCr n v).draws = s.draws := rfl

/-! ## setPc -/

@[simp] theorem setPc_cfg (s : State) (v : Word) : (s.setPc v).cfg = s.cfg := rfl
@[simp] theorem setPc_regs (s : State) (v : Word) : (s.setPc v).regs = s.regs := rfl
@[simp] theorem setPc_cregs (s : State) (v : Word) : (s.setPc v).cregs = s.cregs := rfl
@[simp] theorem setPc_psw (s : State) (v : Word) : (s.setPc v).psw = s.psw := rfl
@[simp] theorem setPc_pc (s : State) (v : Word) : (s.setPc v).pc = evenAddr v := rfl
@[simp] theorem setPc_csr (s : State) (v : Word) : (s.setPc v).csr = s.csr := rfl
@[simp] theorem setPc_lr (s : State) (v : Word) : (s.setPc v).lr = s.lr := rfl
@[simp] theorem setPc_lcsr (s : State) (v : Word) : (s.setPc v).lcsr = s.lcsr := rfl
@[simp] theorem setPc_elr1 (s : State) (v : Word) : (s.setPc v).elr1 = s.elr1 := rfl
@[simp] theorem setPc_elr2 (s : State) (v : Word) : (s.setPc v).elr2 = s.elr2 := rfl
@[simp] theorem setPc_elr3 (s : State) (v : Word) : (s.setPc v).elr3 = s.elr3 := rfl
@[simp] theorem setPc_ecsr1 (s : State) (v : Word) : (s.setPc v).ecsr1 = s.ecsr1 := rfl
@[simp] theorem setPc_ecsr2 (s : State) (v : Word) : (s.setPc v).ecsr2 = s.ecsr2 := rfl
@[simp] theorem setPc_ecsr3 (s : State) (v : Word) : (s.setPc v).ecsr3 = s.ecsr3 := rfl
@[simp] theorem setPc_epsw1 (s : State) (v : Word) : (s.setPc v).epsw1 = s.epsw1 := rfl
@[simp] theorem setPc_epsw2 (s : State) (v : Word) : (s.setPc v).epsw2 = s.epsw2 := rfl
@[simp] theorem setPc_epsw3 (s : State) (v : Word) : (s.setPc v).epsw3 = s.epsw3 := rfl
@[simp] theorem setPc_sp (s : State) (v : Word) : (s.setPc v).sp = s.sp := rfl
@[simp] theorem setPc_ea (s : State) (v : Word) : (s.setPc v).ea = s.ea := rfl
@[simp] theorem setPc_ar (s : State) (v : Word) : (s.setPc v).ar = s.ar := rfl
@[simp] theorem setPc_dsr (s : State) (v : Word) : (s.setPc v).dsr = s.dsr := rfl
@[simp] theorem setPc_dsrPrefix (s : State) (v : Word) : (s.setPc v).dsrPrefix = s.dsrPrefix := rfl
@[simp] theorem setPc_intBlock (s : State) (v : Word) : (s.setPc v).intBlock = s.intBlock := rfl
@[simp] theorem setPc_eiWindow (s : State) (v : Word) : (s.setPc v).eiWindow = s.eiWindow := rfl
@[simp] theorem setPc_code (s : State) (v : Word) : (s.setPc v).code = s.code := rfl
@[simp] theorem setPc_data (s : State) (v : Word) : (s.setPc v).data = s.data := rfl
@[simp] theorem setPc_deviceLog (s : State) (v : Word) : (s.setPc v).deviceLog = s.deviceLog := rfl
@[simp] theorem setPc_inputs (s : State) (v : Word) : (s.setPc v).inputs = s.inputs := rfl
@[simp] theorem setPc_ack (s : State) (v : Word) : (s.setPc v).ack = s.ack := rfl
@[simp] theorem setPc_draws (s : State) (v : Word) : (s.setPc v).draws = s.draws := rfl

/-! ## setLr -/

@[simp] theorem setLr_cfg (s : State) (v : Word) : (s.setLr v).cfg = s.cfg := rfl
@[simp] theorem setLr_regs (s : State) (v : Word) : (s.setLr v).regs = s.regs := rfl
@[simp] theorem setLr_cregs (s : State) (v : Word) : (s.setLr v).cregs = s.cregs := rfl
@[simp] theorem setLr_psw (s : State) (v : Word) : (s.setLr v).psw = s.psw := rfl
@[simp] theorem setLr_pc (s : State) (v : Word) : (s.setLr v).pc = s.pc := rfl
@[simp] theorem setLr_csr (s : State) (v : Word) : (s.setLr v).csr = s.csr := rfl
@[simp] theorem setLr_lr (s : State) (v : Word) : (s.setLr v).lr = evenAddr v := rfl
@[simp] theorem setLr_lcsr (s : State) (v : Word) : (s.setLr v).lcsr = s.lcsr := rfl
@[simp] theorem setLr_elr1 (s : State) (v : Word) : (s.setLr v).elr1 = s.elr1 := rfl
@[simp] theorem setLr_elr2 (s : State) (v : Word) : (s.setLr v).elr2 = s.elr2 := rfl
@[simp] theorem setLr_elr3 (s : State) (v : Word) : (s.setLr v).elr3 = s.elr3 := rfl
@[simp] theorem setLr_ecsr1 (s : State) (v : Word) : (s.setLr v).ecsr1 = s.ecsr1 := rfl
@[simp] theorem setLr_ecsr2 (s : State) (v : Word) : (s.setLr v).ecsr2 = s.ecsr2 := rfl
@[simp] theorem setLr_ecsr3 (s : State) (v : Word) : (s.setLr v).ecsr3 = s.ecsr3 := rfl
@[simp] theorem setLr_epsw1 (s : State) (v : Word) : (s.setLr v).epsw1 = s.epsw1 := rfl
@[simp] theorem setLr_epsw2 (s : State) (v : Word) : (s.setLr v).epsw2 = s.epsw2 := rfl
@[simp] theorem setLr_epsw3 (s : State) (v : Word) : (s.setLr v).epsw3 = s.epsw3 := rfl
@[simp] theorem setLr_sp (s : State) (v : Word) : (s.setLr v).sp = s.sp := rfl
@[simp] theorem setLr_ea (s : State) (v : Word) : (s.setLr v).ea = s.ea := rfl
@[simp] theorem setLr_ar (s : State) (v : Word) : (s.setLr v).ar = s.ar := rfl
@[simp] theorem setLr_dsr (s : State) (v : Word) : (s.setLr v).dsr = s.dsr := rfl
@[simp] theorem setLr_dsrPrefix (s : State) (v : Word) : (s.setLr v).dsrPrefix = s.dsrPrefix := rfl
@[simp] theorem setLr_intBlock (s : State) (v : Word) : (s.setLr v).intBlock = s.intBlock := rfl
@[simp] theorem setLr_eiWindow (s : State) (v : Word) : (s.setLr v).eiWindow = s.eiWindow := rfl
@[simp] theorem setLr_code (s : State) (v : Word) : (s.setLr v).code = s.code := rfl
@[simp] theorem setLr_data (s : State) (v : Word) : (s.setLr v).data = s.data := rfl
@[simp] theorem setLr_deviceLog (s : State) (v : Word) : (s.setLr v).deviceLog = s.deviceLog := rfl
@[simp] theorem setLr_inputs (s : State) (v : Word) : (s.setLr v).inputs = s.inputs := rfl
@[simp] theorem setLr_ack (s : State) (v : Word) : (s.setLr v).ack = s.ack := rfl
@[simp] theorem setLr_draws (s : State) (v : Word) : (s.setLr v).draws = s.draws := rfl

/-! ## setCodeSeg -/

@[simp] theorem setCodeSeg_cfg (s : State) (v : Nibble) : (s.setCodeSeg v).cfg = s.cfg := rfl
@[simp] theorem setCodeSeg_regs (s : State) (v : Nibble) : (s.setCodeSeg v).regs = s.regs := rfl
@[simp] theorem setCodeSeg_cregs (s : State) (v : Nibble) : (s.setCodeSeg v).cregs = s.cregs := rfl
@[simp] theorem setCodeSeg_psw (s : State) (v : Nibble) : (s.setCodeSeg v).psw = s.psw := rfl
@[simp] theorem setCodeSeg_pc (s : State) (v : Nibble) : (s.setCodeSeg v).pc = s.pc := rfl
@[simp] theorem setCodeSeg_csr (s : State) (v : Nibble) :
    (s.setCodeSeg v).csr = s.segWrite s.csr v := rfl
@[simp] theorem setCodeSeg_lr (s : State) (v : Nibble) : (s.setCodeSeg v).lr = s.lr := rfl
@[simp] theorem setCodeSeg_lcsr (s : State) (v : Nibble) : (s.setCodeSeg v).lcsr = s.lcsr := rfl
@[simp] theorem setCodeSeg_elr1 (s : State) (v : Nibble) : (s.setCodeSeg v).elr1 = s.elr1 := rfl
@[simp] theorem setCodeSeg_elr2 (s : State) (v : Nibble) : (s.setCodeSeg v).elr2 = s.elr2 := rfl
@[simp] theorem setCodeSeg_elr3 (s : State) (v : Nibble) : (s.setCodeSeg v).elr3 = s.elr3 := rfl
@[simp] theorem setCodeSeg_ecsr1 (s : State) (v : Nibble) : (s.setCodeSeg v).ecsr1 = s.ecsr1 := rfl
@[simp] theorem setCodeSeg_ecsr2 (s : State) (v : Nibble) : (s.setCodeSeg v).ecsr2 = s.ecsr2 := rfl
@[simp] theorem setCodeSeg_ecsr3 (s : State) (v : Nibble) : (s.setCodeSeg v).ecsr3 = s.ecsr3 := rfl
@[simp] theorem setCodeSeg_epsw1 (s : State) (v : Nibble) : (s.setCodeSeg v).epsw1 = s.epsw1 := rfl
@[simp] theorem setCodeSeg_epsw2 (s : State) (v : Nibble) : (s.setCodeSeg v).epsw2 = s.epsw2 := rfl
@[simp] theorem setCodeSeg_epsw3 (s : State) (v : Nibble) : (s.setCodeSeg v).epsw3 = s.epsw3 := rfl
@[simp] theorem setCodeSeg_sp (s : State) (v : Nibble) : (s.setCodeSeg v).sp = s.sp := rfl
@[simp] theorem setCodeSeg_ea (s : State) (v : Nibble) : (s.setCodeSeg v).ea = s.ea := rfl
@[simp] theorem setCodeSeg_ar (s : State) (v : Nibble) : (s.setCodeSeg v).ar = s.ar := rfl
@[simp] theorem setCodeSeg_dsr (s : State) (v : Nibble) : (s.setCodeSeg v).dsr = s.dsr := rfl
@[simp] theorem setCodeSeg_dsrPrefix (s : State) (v : Nibble) :
    (s.setCodeSeg v).dsrPrefix = s.dsrPrefix := rfl
@[simp] theorem setCodeSeg_intBlock (s : State) (v : Nibble) :
    (s.setCodeSeg v).intBlock = s.intBlock := rfl
@[simp] theorem setCodeSeg_eiWindow (s : State) (v : Nibble) :
    (s.setCodeSeg v).eiWindow = s.eiWindow := rfl
@[simp] theorem setCodeSeg_code (s : State) (v : Nibble) : (s.setCodeSeg v).code = s.code := rfl
@[simp] theorem setCodeSeg_data (s : State) (v : Nibble) : (s.setCodeSeg v).data = s.data := rfl
@[simp] theorem setCodeSeg_deviceLog (s : State) (v : Nibble) :
    (s.setCodeSeg v).deviceLog = s.deviceLog := rfl
@[simp] theorem setCodeSeg_inputs (s : State) (v : Nibble) :
    (s.setCodeSeg v).inputs = s.inputs := rfl
@[simp] theorem setCodeSeg_ack (s : State) (v : Nibble) : (s.setCodeSeg v).ack = s.ack := rfl
@[simp] theorem setCodeSeg_draws (s : State) (v : Nibble) : (s.setCodeSeg v).draws = s.draws := rfl

/-! ## setLinkSeg -/

@[simp] theorem setLinkSeg_cfg (s : State) (v : Nibble) : (s.setLinkSeg v).cfg = s.cfg := rfl
@[simp] theorem setLinkSeg_regs (s : State) (v : Nibble) : (s.setLinkSeg v).regs = s.regs := rfl
@[simp] theorem setLinkSeg_cregs (s : State) (v : Nibble) : (s.setLinkSeg v).cregs = s.cregs := rfl
@[simp] theorem setLinkSeg_psw (s : State) (v : Nibble) : (s.setLinkSeg v).psw = s.psw := rfl
@[simp] theorem setLinkSeg_pc (s : State) (v : Nibble) : (s.setLinkSeg v).pc = s.pc := rfl
@[simp] theorem setLinkSeg_csr (s : State) (v : Nibble) : (s.setLinkSeg v).csr = s.csr := rfl
@[simp] theorem setLinkSeg_lr (s : State) (v : Nibble) : (s.setLinkSeg v).lr = s.lr := rfl
@[simp] theorem setLinkSeg_lcsr (s : State) (v : Nibble) :
    (s.setLinkSeg v).lcsr = s.segWrite s.lcsr v := rfl
@[simp] theorem setLinkSeg_elr1 (s : State) (v : Nibble) : (s.setLinkSeg v).elr1 = s.elr1 := rfl
@[simp] theorem setLinkSeg_elr2 (s : State) (v : Nibble) : (s.setLinkSeg v).elr2 = s.elr2 := rfl
@[simp] theorem setLinkSeg_elr3 (s : State) (v : Nibble) : (s.setLinkSeg v).elr3 = s.elr3 := rfl
@[simp] theorem setLinkSeg_ecsr1 (s : State) (v : Nibble) : (s.setLinkSeg v).ecsr1 = s.ecsr1 := rfl
@[simp] theorem setLinkSeg_ecsr2 (s : State) (v : Nibble) : (s.setLinkSeg v).ecsr2 = s.ecsr2 := rfl
@[simp] theorem setLinkSeg_ecsr3 (s : State) (v : Nibble) : (s.setLinkSeg v).ecsr3 = s.ecsr3 := rfl
@[simp] theorem setLinkSeg_epsw1 (s : State) (v : Nibble) : (s.setLinkSeg v).epsw1 = s.epsw1 := rfl
@[simp] theorem setLinkSeg_epsw2 (s : State) (v : Nibble) : (s.setLinkSeg v).epsw2 = s.epsw2 := rfl
@[simp] theorem setLinkSeg_epsw3 (s : State) (v : Nibble) : (s.setLinkSeg v).epsw3 = s.epsw3 := rfl
@[simp] theorem setLinkSeg_sp (s : State) (v : Nibble) : (s.setLinkSeg v).sp = s.sp := rfl
@[simp] theorem setLinkSeg_ea (s : State) (v : Nibble) : (s.setLinkSeg v).ea = s.ea := rfl
@[simp] theorem setLinkSeg_ar (s : State) (v : Nibble) : (s.setLinkSeg v).ar = s.ar := rfl
@[simp] theorem setLinkSeg_dsr (s : State) (v : Nibble) : (s.setLinkSeg v).dsr = s.dsr := rfl
@[simp] theorem setLinkSeg_dsrPrefix (s : State) (v : Nibble) :
    (s.setLinkSeg v).dsrPrefix = s.dsrPrefix := rfl
@[simp] theorem setLinkSeg_intBlock (s : State) (v : Nibble) :
    (s.setLinkSeg v).intBlock = s.intBlock := rfl
@[simp] theorem setLinkSeg_eiWindow (s : State) (v : Nibble) :
    (s.setLinkSeg v).eiWindow = s.eiWindow := rfl
@[simp] theorem setLinkSeg_code (s : State) (v : Nibble) : (s.setLinkSeg v).code = s.code := rfl
@[simp] theorem setLinkSeg_data (s : State) (v : Nibble) : (s.setLinkSeg v).data = s.data := rfl
@[simp] theorem setLinkSeg_deviceLog (s : State) (v : Nibble) :
    (s.setLinkSeg v).deviceLog = s.deviceLog := rfl
@[simp] theorem setLinkSeg_inputs (s : State) (v : Nibble) :
    (s.setLinkSeg v).inputs = s.inputs := rfl
@[simp] theorem setLinkSeg_ack (s : State) (v : Nibble) : (s.setLinkSeg v).ack = s.ack := rfl
@[simp] theorem setLinkSeg_draws (s : State) (v : Nibble) : (s.setLinkSeg v).draws = s.draws := rfl

/-! ## setElr -/

@[simp] theorem setElr_cfg (s : State) (k : Bank) (v : Word) :
    (s.setElr k v).cfg = s.cfg := by cases k <;> rfl
@[simp] theorem setElr_regs (s : State) (k : Bank) (v : Word) :
    (s.setElr k v).regs = s.regs := by cases k <;> rfl
@[simp] theorem setElr_cregs (s : State) (k : Bank) (v : Word) :
    (s.setElr k v).cregs = s.cregs := by cases k <;> rfl
@[simp] theorem setElr_psw (s : State) (k : Bank) (v : Word) :
    (s.setElr k v).psw = s.psw := by cases k <;> rfl
@[simp] theorem setElr_pc (s : State) (k : Bank) (v : Word) :
    (s.setElr k v).pc = s.pc := by cases k <;> rfl
@[simp] theorem setElr_csr (s : State) (k : Bank) (v : Word) :
    (s.setElr k v).csr = s.csr := by cases k <;> rfl
@[simp] theorem setElr_lr (s : State) (k : Bank) (v : Word) :
    (s.setElr k v).lr = s.lr := by cases k <;> rfl
@[simp] theorem setElr_lcsr (s : State) (k : Bank) (v : Word) :
    (s.setElr k v).lcsr = s.lcsr := by cases k <;> rfl
@[simp] theorem setElr_ecsr1 (s : State) (k : Bank) (v : Word) :
    (s.setElr k v).ecsr1 = s.ecsr1 := by cases k <;> rfl
@[simp] theorem setElr_ecsr2 (s : State) (k : Bank) (v : Word) :
    (s.setElr k v).ecsr2 = s.ecsr2 := by cases k <;> rfl
@[simp] theorem setElr_ecsr3 (s : State) (k : Bank) (v : Word) :
    (s.setElr k v).ecsr3 = s.ecsr3 := by cases k <;> rfl
@[simp] theorem setElr_epsw1 (s : State) (k : Bank) (v : Word) :
    (s.setElr k v).epsw1 = s.epsw1 := by cases k <;> rfl
@[simp] theorem setElr_epsw2 (s : State) (k : Bank) (v : Word) :
    (s.setElr k v).epsw2 = s.epsw2 := by cases k <;> rfl
@[simp] theorem setElr_epsw3 (s : State) (k : Bank) (v : Word) :
    (s.setElr k v).epsw3 = s.epsw3 := by cases k <;> rfl
@[simp] theorem setElr_sp (s : State) (k : Bank) (v : Word) :
    (s.setElr k v).sp = s.sp := by cases k <;> rfl
@[simp] theorem setElr_ea (s : State) (k : Bank) (v : Word) :
    (s.setElr k v).ea = s.ea := by cases k <;> rfl
@[simp] theorem setElr_ar (s : State) (k : Bank) (v : Word) :
    (s.setElr k v).ar = s.ar := by cases k <;> rfl
@[simp] theorem setElr_dsr (s : State) (k : Bank) (v : Word) :
    (s.setElr k v).dsr = s.dsr := by cases k <;> rfl
@[simp] theorem setElr_dsrPrefix (s : State) (k : Bank) (v : Word) :
    (s.setElr k v).dsrPrefix = s.dsrPrefix := by cases k <;> rfl
@[simp] theorem setElr_intBlock (s : State) (k : Bank) (v : Word) :
    (s.setElr k v).intBlock = s.intBlock := by cases k <;> rfl
@[simp] theorem setElr_eiWindow (s : State) (k : Bank) (v : Word) :
    (s.setElr k v).eiWindow = s.eiWindow := by cases k <;> rfl
@[simp] theorem setElr_code (s : State) (k : Bank) (v : Word) :
    (s.setElr k v).code = s.code := by cases k <;> rfl
@[simp] theorem setElr_data (s : State) (k : Bank) (v : Word) :
    (s.setElr k v).data = s.data := by cases k <;> rfl
@[simp] theorem setElr_deviceLog (s : State) (k : Bank) (v : Word) :
    (s.setElr k v).deviceLog = s.deviceLog := by cases k <;> rfl
@[simp] theorem setElr_inputs (s : State) (k : Bank) (v : Word) :
    (s.setElr k v).inputs = s.inputs := by cases k <;> rfl
@[simp] theorem setElr_ack (s : State) (k : Bank) (v : Word) :
    (s.setElr k v).ack = s.ack := by cases k <;> rfl
@[simp] theorem setElr_draws (s : State) (k : Bank) (v : Word) :
    (s.setElr k v).draws = s.draws := by cases k <;> rfl

/-! ## setEcsr -/

@[simp] theorem setEcsr_cfg (s : State) (k : Bank) (v : Nibble) :
    (s.setEcsr k v).cfg = s.cfg := by cases k <;> rfl
@[simp] theorem setEcsr_regs (s : State) (k : Bank) (v : Nibble) :
    (s.setEcsr k v).regs = s.regs := by cases k <;> rfl
@[simp] theorem setEcsr_cregs (s : State) (k : Bank) (v : Nibble) :
    (s.setEcsr k v).cregs = s.cregs := by cases k <;> rfl
@[simp] theorem setEcsr_psw (s : State) (k : Bank) (v : Nibble) :
    (s.setEcsr k v).psw = s.psw := by cases k <;> rfl
@[simp] theorem setEcsr_pc (s : State) (k : Bank) (v : Nibble) :
    (s.setEcsr k v).pc = s.pc := by cases k <;> rfl
@[simp] theorem setEcsr_csr (s : State) (k : Bank) (v : Nibble) :
    (s.setEcsr k v).csr = s.csr := by cases k <;> rfl
@[simp] theorem setEcsr_lr (s : State) (k : Bank) (v : Nibble) :
    (s.setEcsr k v).lr = s.lr := by cases k <;> rfl
@[simp] theorem setEcsr_lcsr (s : State) (k : Bank) (v : Nibble) :
    (s.setEcsr k v).lcsr = s.lcsr := by cases k <;> rfl
@[simp] theorem setEcsr_elr1 (s : State) (k : Bank) (v : Nibble) :
    (s.setEcsr k v).elr1 = s.elr1 := by cases k <;> rfl
@[simp] theorem setEcsr_elr2 (s : State) (k : Bank) (v : Nibble) :
    (s.setEcsr k v).elr2 = s.elr2 := by cases k <;> rfl
@[simp] theorem setEcsr_elr3 (s : State) (k : Bank) (v : Nibble) :
    (s.setEcsr k v).elr3 = s.elr3 := by cases k <;> rfl
@[simp] theorem setEcsr_epsw1 (s : State) (k : Bank) (v : Nibble) :
    (s.setEcsr k v).epsw1 = s.epsw1 := by cases k <;> rfl
@[simp] theorem setEcsr_epsw2 (s : State) (k : Bank) (v : Nibble) :
    (s.setEcsr k v).epsw2 = s.epsw2 := by cases k <;> rfl
@[simp] theorem setEcsr_epsw3 (s : State) (k : Bank) (v : Nibble) :
    (s.setEcsr k v).epsw3 = s.epsw3 := by cases k <;> rfl
@[simp] theorem setEcsr_sp (s : State) (k : Bank) (v : Nibble) :
    (s.setEcsr k v).sp = s.sp := by cases k <;> rfl
@[simp] theorem setEcsr_ea (s : State) (k : Bank) (v : Nibble) :
    (s.setEcsr k v).ea = s.ea := by cases k <;> rfl
@[simp] theorem setEcsr_ar (s : State) (k : Bank) (v : Nibble) :
    (s.setEcsr k v).ar = s.ar := by cases k <;> rfl
@[simp] theorem setEcsr_dsr (s : State) (k : Bank) (v : Nibble) :
    (s.setEcsr k v).dsr = s.dsr := by cases k <;> rfl
@[simp] theorem setEcsr_dsrPrefix (s : State) (k : Bank) (v : Nibble) :
    (s.setEcsr k v).dsrPrefix = s.dsrPrefix := by cases k <;> rfl
@[simp] theorem setEcsr_intBlock (s : State) (k : Bank) (v : Nibble) :
    (s.setEcsr k v).intBlock = s.intBlock := by cases k <;> rfl
@[simp] theorem setEcsr_eiWindow (s : State) (k : Bank) (v : Nibble) :
    (s.setEcsr k v).eiWindow = s.eiWindow := by cases k <;> rfl
@[simp] theorem setEcsr_code (s : State) (k : Bank) (v : Nibble) :
    (s.setEcsr k v).code = s.code := by cases k <;> rfl
@[simp] theorem setEcsr_data (s : State) (k : Bank) (v : Nibble) :
    (s.setEcsr k v).data = s.data := by cases k <;> rfl
@[simp] theorem setEcsr_deviceLog (s : State) (k : Bank) (v : Nibble) :
    (s.setEcsr k v).deviceLog = s.deviceLog := by cases k <;> rfl
@[simp] theorem setEcsr_inputs (s : State) (k : Bank) (v : Nibble) :
    (s.setEcsr k v).inputs = s.inputs := by cases k <;> rfl
@[simp] theorem setEcsr_ack (s : State) (k : Bank) (v : Nibble) :
    (s.setEcsr k v).ack = s.ack := by cases k <;> rfl
@[simp] theorem setEcsr_draws (s : State) (k : Bank) (v : Nibble) :
    (s.setEcsr k v).draws = s.draws := by cases k <;> rfl

/-! ## setEpsw -/

@[simp] theorem setEpsw_cfg (s : State) (k : Bank) (v : Byte) :
    (s.setEpsw k v).cfg = s.cfg := by cases k <;> rfl
@[simp] theorem setEpsw_regs (s : State) (k : Bank) (v : Byte) :
    (s.setEpsw k v).regs = s.regs := by cases k <;> rfl
@[simp] theorem setEpsw_cregs (s : State) (k : Bank) (v : Byte) :
    (s.setEpsw k v).cregs = s.cregs := by cases k <;> rfl
@[simp] theorem setEpsw_psw (s : State) (k : Bank) (v : Byte) :
    (s.setEpsw k v).psw = s.psw := by cases k <;> rfl
@[simp] theorem setEpsw_pc (s : State) (k : Bank) (v : Byte) :
    (s.setEpsw k v).pc = s.pc := by cases k <;> rfl
@[simp] theorem setEpsw_csr (s : State) (k : Bank) (v : Byte) :
    (s.setEpsw k v).csr = s.csr := by cases k <;> rfl
@[simp] theorem setEpsw_lr (s : State) (k : Bank) (v : Byte) :
    (s.setEpsw k v).lr = s.lr := by cases k <;> rfl
@[simp] theorem setEpsw_lcsr (s : State) (k : Bank) (v : Byte) :
    (s.setEpsw k v).lcsr = s.lcsr := by cases k <;> rfl
@[simp] theorem setEpsw_elr1 (s : State) (k : Bank) (v : Byte) :
    (s.setEpsw k v).elr1 = s.elr1 := by cases k <;> rfl
@[simp] theorem setEpsw_elr2 (s : State) (k : Bank) (v : Byte) :
    (s.setEpsw k v).elr2 = s.elr2 := by cases k <;> rfl
@[simp] theorem setEpsw_elr3 (s : State) (k : Bank) (v : Byte) :
    (s.setEpsw k v).elr3 = s.elr3 := by cases k <;> rfl
@[simp] theorem setEpsw_ecsr1 (s : State) (k : Bank) (v : Byte) :
    (s.setEpsw k v).ecsr1 = s.ecsr1 := by cases k <;> rfl
@[simp] theorem setEpsw_ecsr2 (s : State) (k : Bank) (v : Byte) :
    (s.setEpsw k v).ecsr2 = s.ecsr2 := by cases k <;> rfl
@[simp] theorem setEpsw_ecsr3 (s : State) (k : Bank) (v : Byte) :
    (s.setEpsw k v).ecsr3 = s.ecsr3 := by cases k <;> rfl
@[simp] theorem setEpsw_sp (s : State) (k : Bank) (v : Byte) :
    (s.setEpsw k v).sp = s.sp := by cases k <;> rfl
@[simp] theorem setEpsw_ea (s : State) (k : Bank) (v : Byte) :
    (s.setEpsw k v).ea = s.ea := by cases k <;> rfl
@[simp] theorem setEpsw_ar (s : State) (k : Bank) (v : Byte) :
    (s.setEpsw k v).ar = s.ar := by cases k <;> rfl
@[simp] theorem setEpsw_dsr (s : State) (k : Bank) (v : Byte) :
    (s.setEpsw k v).dsr = s.dsr := by cases k <;> rfl
@[simp] theorem setEpsw_dsrPrefix (s : State) (k : Bank) (v : Byte) :
    (s.setEpsw k v).dsrPrefix = s.dsrPrefix := by cases k <;> rfl
@[simp] theorem setEpsw_intBlock (s : State) (k : Bank) (v : Byte) :
    (s.setEpsw k v).intBlock = s.intBlock := by cases k <;> rfl
@[simp] theorem setEpsw_eiWindow (s : State) (k : Bank) (v : Byte) :
    (s.setEpsw k v).eiWindow = s.eiWindow := by cases k <;> rfl
@[simp] theorem setEpsw_code (s : State) (k : Bank) (v : Byte) :
    (s.setEpsw k v).code = s.code := by cases k <;> rfl
@[simp] theorem setEpsw_data (s : State) (k : Bank) (v : Byte) :
    (s.setEpsw k v).data = s.data := by cases k <;> rfl
@[simp] theorem setEpsw_deviceLog (s : State) (k : Bank) (v : Byte) :
    (s.setEpsw k v).deviceLog = s.deviceLog := by cases k <;> rfl
@[simp] theorem setEpsw_inputs (s : State) (k : Bank) (v : Byte) :
    (s.setEpsw k v).inputs = s.inputs := by cases k <;> rfl
@[simp] theorem setEpsw_ack (s : State) (k : Bank) (v : Byte) :
    (s.setEpsw k v).ack = s.ack := by cases k <;> rfl
@[simp] theorem setEpsw_draws (s : State) (k : Bank) (v : Byte) :
    (s.setEpsw k v).draws = s.draws := by cases k <;> rfl

/-! ## afterRead -/

@[simp] theorem afterRead_cfg (s : State) (seg : Byte) (off : Word) :
    (s.afterRead seg off).cfg = s.cfg := rfl
@[simp] theorem afterRead_regs (s : State) (seg : Byte) (off : Word) :
    (s.afterRead seg off).regs = s.regs := rfl
@[simp] theorem afterRead_cregs (s : State) (seg : Byte) (off : Word) :
    (s.afterRead seg off).cregs = s.cregs := rfl
@[simp] theorem afterRead_psw (s : State) (seg : Byte) (off : Word) :
    (s.afterRead seg off).psw = s.psw := rfl
@[simp] theorem afterRead_pc (s : State) (seg : Byte) (off : Word) :
    (s.afterRead seg off).pc = s.pc := rfl
@[simp] theorem afterRead_csr (s : State) (seg : Byte) (off : Word) :
    (s.afterRead seg off).csr = s.csr := rfl
@[simp] theorem afterRead_lr (s : State) (seg : Byte) (off : Word) :
    (s.afterRead seg off).lr = s.lr := rfl
@[simp] theorem afterRead_lcsr (s : State) (seg : Byte) (off : Word) :
    (s.afterRead seg off).lcsr = s.lcsr := rfl
@[simp] theorem afterRead_elr1 (s : State) (seg : Byte) (off : Word) :
    (s.afterRead seg off).elr1 = s.elr1 := rfl
@[simp] theorem afterRead_elr2 (s : State) (seg : Byte) (off : Word) :
    (s.afterRead seg off).elr2 = s.elr2 := rfl
@[simp] theorem afterRead_elr3 (s : State) (seg : Byte) (off : Word) :
    (s.afterRead seg off).elr3 = s.elr3 := rfl
@[simp] theorem afterRead_ecsr1 (s : State) (seg : Byte) (off : Word) :
    (s.afterRead seg off).ecsr1 = s.ecsr1 := rfl
@[simp] theorem afterRead_ecsr2 (s : State) (seg : Byte) (off : Word) :
    (s.afterRead seg off).ecsr2 = s.ecsr2 := rfl
@[simp] theorem afterRead_ecsr3 (s : State) (seg : Byte) (off : Word) :
    (s.afterRead seg off).ecsr3 = s.ecsr3 := rfl
@[simp] theorem afterRead_epsw1 (s : State) (seg : Byte) (off : Word) :
    (s.afterRead seg off).epsw1 = s.epsw1 := rfl
@[simp] theorem afterRead_epsw2 (s : State) (seg : Byte) (off : Word) :
    (s.afterRead seg off).epsw2 = s.epsw2 := rfl
@[simp] theorem afterRead_epsw3 (s : State) (seg : Byte) (off : Word) :
    (s.afterRead seg off).epsw3 = s.epsw3 := rfl
@[simp] theorem afterRead_sp (s : State) (seg : Byte) (off : Word) :
    (s.afterRead seg off).sp = s.sp := rfl
@[simp] theorem afterRead_ea (s : State) (seg : Byte) (off : Word) :
    (s.afterRead seg off).ea = s.ea := rfl
@[simp] theorem afterRead_ar (s : State) (seg : Byte) (off : Word) :
    (s.afterRead seg off).ar = off := rfl
@[simp] theorem afterRead_dsr (s : State) (seg : Byte) (off : Word) :
    (s.afterRead seg off).dsr = s.dsr := rfl
@[simp] theorem afterRead_dsrPrefix (s : State) (seg : Byte) (off : Word) :
    (s.afterRead seg off).dsrPrefix = s.dsrPrefix := rfl
@[simp] theorem afterRead_intBlock (s : State) (seg : Byte) (off : Word) :
    (s.afterRead seg off).intBlock = s.intBlock := rfl
@[simp] theorem afterRead_eiWindow (s : State) (seg : Byte) (off : Word) :
    (s.afterRead seg off).eiWindow = s.eiWindow := rfl
@[simp] theorem afterRead_code (s : State) (seg : Byte) (off : Word) :
    (s.afterRead seg off).code = s.code := rfl
@[simp] theorem afterRead_data (s : State) (seg : Byte) (off : Word) :
    (s.afterRead seg off).data = s.data := rfl
@[simp] theorem afterRead_deviceLog (s : State) (seg : Byte) (off : Word) :
    (s.afterRead seg off).deviceLog = s.deviceLog ++ deviceSees s.cfg seg off .read := rfl
@[simp] theorem afterRead_inputs (s : State) (seg : Byte) (off : Word) :
    (s.afterRead seg off).inputs = s.inputs := rfl
@[simp] theorem afterRead_ack (s : State) (seg : Byte) (off : Word) :
    (s.afterRead seg off).ack = s.ack := rfl
@[simp] theorem afterRead_draws (s : State) (seg : Byte) (off : Word) :
    (s.afterRead seg off).draws = s.draws := rfl

/-! ## popped -/

@[simp] theorem popped_cfg (s : State) (size : Word) : (s.popped size).cfg = s.cfg := rfl
@[simp] theorem popped_regs (s : State) (size : Word) : (s.popped size).regs = s.regs := rfl
@[simp] theorem popped_cregs (s : State) (size : Word) : (s.popped size).cregs = s.cregs := rfl
@[simp] theorem popped_psw (s : State) (size : Word) : (s.popped size).psw = s.psw := rfl
@[simp] theorem popped_pc (s : State) (size : Word) : (s.popped size).pc = s.pc := rfl
@[simp] theorem popped_csr (s : State) (size : Word) : (s.popped size).csr = s.csr := rfl
@[simp] theorem popped_lr (s : State) (size : Word) : (s.popped size).lr = s.lr := rfl
@[simp] theorem popped_lcsr (s : State) (size : Word) : (s.popped size).lcsr = s.lcsr := rfl
@[simp] theorem popped_elr1 (s : State) (size : Word) : (s.popped size).elr1 = s.elr1 := rfl
@[simp] theorem popped_elr2 (s : State) (size : Word) : (s.popped size).elr2 = s.elr2 := rfl
@[simp] theorem popped_elr3 (s : State) (size : Word) : (s.popped size).elr3 = s.elr3 := rfl
@[simp] theorem popped_ecsr1 (s : State) (size : Word) : (s.popped size).ecsr1 = s.ecsr1 := rfl
@[simp] theorem popped_ecsr2 (s : State) (size : Word) : (s.popped size).ecsr2 = s.ecsr2 := rfl
@[simp] theorem popped_ecsr3 (s : State) (size : Word) : (s.popped size).ecsr3 = s.ecsr3 := rfl
@[simp] theorem popped_epsw1 (s : State) (size : Word) : (s.popped size).epsw1 = s.epsw1 := rfl
@[simp] theorem popped_epsw2 (s : State) (size : Word) : (s.popped size).epsw2 = s.epsw2 := rfl
@[simp] theorem popped_epsw3 (s : State) (size : Word) : (s.popped size).epsw3 = s.epsw3 := rfl
@[simp] theorem popped_sp (s : State) (size : Word) : (s.popped size).sp = s.sp + size := rfl
@[simp] theorem popped_ea (s : State) (size : Word) : (s.popped size).ea = s.ea := rfl
@[simp] theorem popped_ar (s : State) (size : Word) : (s.popped size).ar = s.ar := rfl
@[simp] theorem popped_dsr (s : State) (size : Word) : (s.popped size).dsr = s.dsr := rfl
@[simp] theorem popped_dsrPrefix (s : State) (size : Word) :
    (s.popped size).dsrPrefix = s.dsrPrefix := rfl
@[simp] theorem popped_intBlock (s : State) (size : Word) :
    (s.popped size).intBlock = s.intBlock := rfl
@[simp] theorem popped_eiWindow (s : State) (size : Word) :
    (s.popped size).eiWindow = s.eiWindow := rfl
@[simp] theorem popped_code (s : State) (size : Word) : (s.popped size).code = s.code := rfl
@[simp] theorem popped_data (s : State) (size : Word) : (s.popped size).data = s.data := rfl
@[simp] theorem popped_deviceLog (s : State) (size : Word) :
    (s.popped size).deviceLog = s.deviceLog := rfl
@[simp] theorem popped_inputs (s : State) (size : Word) : (s.popped size).inputs = s.inputs := rfl
@[simp] theorem popped_ack (s : State) (size : Word) : (s.popped size).ack = s.ack := rfl
@[simp] theorem popped_draws (s : State) (size : Word) : (s.popped size).draws = s.draws := rfl

/-! ## settle -/

@[simp] theorem settle_cfg (s : State) : (s.settle).cfg = s.cfg := rfl
@[simp] theorem settle_regs (s : State) : (s.settle).regs = s.regs := rfl
@[simp] theorem settle_cregs (s : State) : (s.settle).cregs = s.cregs := rfl
@[simp] theorem settle_psw (s : State) : (s.settle).psw = s.psw := rfl
@[simp] theorem settle_pc (s : State) : (s.settle).pc = s.pc := rfl
@[simp] theorem settle_csr (s : State) : (s.settle).csr = s.csr := rfl
@[simp] theorem settle_lr (s : State) : (s.settle).lr = s.lr := rfl
@[simp] theorem settle_lcsr (s : State) : (s.settle).lcsr = s.lcsr := rfl
@[simp] theorem settle_elr1 (s : State) : (s.settle).elr1 = s.elr1 := rfl
@[simp] theorem settle_elr2 (s : State) : (s.settle).elr2 = s.elr2 := rfl
@[simp] theorem settle_elr3 (s : State) : (s.settle).elr3 = s.elr3 := rfl
@[simp] theorem settle_ecsr1 (s : State) : (s.settle).ecsr1 = s.ecsr1 := rfl
@[simp] theorem settle_ecsr2 (s : State) : (s.settle).ecsr2 = s.ecsr2 := rfl
@[simp] theorem settle_ecsr3 (s : State) : (s.settle).ecsr3 = s.ecsr3 := rfl
@[simp] theorem settle_epsw1 (s : State) : (s.settle).epsw1 = s.epsw1 := rfl
@[simp] theorem settle_epsw2 (s : State) : (s.settle).epsw2 = s.epsw2 := rfl
@[simp] theorem settle_epsw3 (s : State) : (s.settle).epsw3 = s.epsw3 := rfl
@[simp] theorem settle_sp (s : State) : (s.settle).sp = s.sp := rfl
@[simp] theorem settle_ea (s : State) : (s.settle).ea = s.ea := rfl
@[simp] theorem settle_ar (s : State) : (s.settle).ar = s.ar := rfl
@[simp] theorem settle_dsr (s : State) : (s.settle).dsr = s.dsr := rfl
@[simp] theorem settle_dsrPrefix (s : State) : (s.settle).dsrPrefix = false := rfl
@[simp] theorem settle_intBlock (s : State) : (s.settle).intBlock = false := rfl
@[simp] theorem settle_eiWindow (s : State) : (s.settle).eiWindow = s.eiWindow := rfl
@[simp] theorem settle_code (s : State) : (s.settle).code = s.code := rfl
@[simp] theorem settle_data (s : State) : (s.settle).data = s.data := rfl
@[simp] theorem settle_deviceLog (s : State) : (s.settle).deviceLog = s.deviceLog := rfl
@[simp] theorem settle_inputs (s : State) : (s.settle).inputs = s.inputs := rfl
@[simp] theorem settle_ack (s : State) : (s.settle).ack = s.ack := rfl
@[simp] theorem settle_draws (s : State) : (s.settle).draws = s.draws := rfl

/-! ## advance -/

@[simp] theorem advance_cfg (s : State) (words : Nat) : (s.advance words).cfg = s.cfg := rfl
@[simp] theorem advance_regs (s : State) (words : Nat) : (s.advance words).regs = s.regs := rfl
@[simp] theorem advance_cregs (s : State) (words : Nat) : (s.advance words).cregs = s.cregs := rfl
@[simp] theorem advance_psw (s : State) (words : Nat) : (s.advance words).psw = s.psw := rfl
@[simp] theorem advance_pc (s : State) (words : Nat) : (s.advance words).pc = s.nextPc words := rfl
@[simp] theorem advance_csr (s : State) (words : Nat) : (s.advance words).csr = s.csr := rfl
@[simp] theorem advance_lr (s : State) (words : Nat) : (s.advance words).lr = s.lr := rfl
@[simp] theorem advance_lcsr (s : State) (words : Nat) : (s.advance words).lcsr = s.lcsr := rfl
@[simp] theorem advance_elr1 (s : State) (words : Nat) : (s.advance words).elr1 = s.elr1 := rfl
@[simp] theorem advance_elr2 (s : State) (words : Nat) : (s.advance words).elr2 = s.elr2 := rfl
@[simp] theorem advance_elr3 (s : State) (words : Nat) : (s.advance words).elr3 = s.elr3 := rfl
@[simp] theorem advance_ecsr1 (s : State) (words : Nat) : (s.advance words).ecsr1 = s.ecsr1 := rfl
@[simp] theorem advance_ecsr2 (s : State) (words : Nat) : (s.advance words).ecsr2 = s.ecsr2 := rfl
@[simp] theorem advance_ecsr3 (s : State) (words : Nat) : (s.advance words).ecsr3 = s.ecsr3 := rfl
@[simp] theorem advance_epsw1 (s : State) (words : Nat) : (s.advance words).epsw1 = s.epsw1 := rfl
@[simp] theorem advance_epsw2 (s : State) (words : Nat) : (s.advance words).epsw2 = s.epsw2 := rfl
@[simp] theorem advance_epsw3 (s : State) (words : Nat) : (s.advance words).epsw3 = s.epsw3 := rfl
@[simp] theorem advance_sp (s : State) (words : Nat) : (s.advance words).sp = s.sp := rfl
@[simp] theorem advance_ea (s : State) (words : Nat) : (s.advance words).ea = s.ea := rfl
@[simp] theorem advance_ar (s : State) (words : Nat) : (s.advance words).ar = s.ar := rfl
@[simp] theorem advance_dsr (s : State) (words : Nat) : (s.advance words).dsr = s.dsr := rfl
@[simp] theorem advance_dsrPrefix (s : State) (words : Nat) :
    (s.advance words).dsrPrefix = false := rfl
@[simp] theorem advance_intBlock (s : State) (words : Nat) :
    (s.advance words).intBlock = false := rfl
@[simp] theorem advance_eiWindow (s : State) (words : Nat) :
    (s.advance words).eiWindow = s.eiWindow := rfl
@[simp] theorem advance_code (s : State) (words : Nat) : (s.advance words).code = s.code := rfl
@[simp] theorem advance_data (s : State) (words : Nat) : (s.advance words).data = s.data := rfl
@[simp] theorem advance_deviceLog (s : State) (words : Nat) :
    (s.advance words).deviceLog = s.deviceLog := rfl
@[simp] theorem advance_inputs (s : State) (words : Nat) :
    (s.advance words).inputs = s.inputs := rfl
@[simp] theorem advance_ack (s : State) (words : Nat) : (s.advance words).ack = s.ack := rfl
@[simp] theorem advance_draws (s : State) (words : Nat) : (s.advance words).draws = s.draws := rfl

/-! ## jump -/

@[simp] theorem jump_cfg (s : State) (target : Word) : (s.jump target).cfg = s.cfg := rfl
@[simp] theorem jump_regs (s : State) (target : Word) : (s.jump target).regs = s.regs := rfl
@[simp] theorem jump_cregs (s : State) (target : Word) : (s.jump target).cregs = s.cregs := rfl
@[simp] theorem jump_psw (s : State) (target : Word) : (s.jump target).psw = s.psw := rfl
@[simp] theorem jump_pc (s : State) (target : Word) : (s.jump target).pc = evenAddr target := rfl
@[simp] theorem jump_csr (s : State) (target : Word) : (s.jump target).csr = s.csr := rfl
@[simp] theorem jump_lr (s : State) (target : Word) : (s.jump target).lr = s.lr := rfl
@[simp] theorem jump_lcsr (s : State) (target : Word) : (s.jump target).lcsr = s.lcsr := rfl
@[simp] theorem jump_elr1 (s : State) (target : Word) : (s.jump target).elr1 = s.elr1 := rfl
@[simp] theorem jump_elr2 (s : State) (target : Word) : (s.jump target).elr2 = s.elr2 := rfl
@[simp] theorem jump_elr3 (s : State) (target : Word) : (s.jump target).elr3 = s.elr3 := rfl
@[simp] theorem jump_ecsr1 (s : State) (target : Word) : (s.jump target).ecsr1 = s.ecsr1 := rfl
@[simp] theorem jump_ecsr2 (s : State) (target : Word) : (s.jump target).ecsr2 = s.ecsr2 := rfl
@[simp] theorem jump_ecsr3 (s : State) (target : Word) : (s.jump target).ecsr3 = s.ecsr3 := rfl
@[simp] theorem jump_epsw1 (s : State) (target : Word) : (s.jump target).epsw1 = s.epsw1 := rfl
@[simp] theorem jump_epsw2 (s : State) (target : Word) : (s.jump target).epsw2 = s.epsw2 := rfl
@[simp] theorem jump_epsw3 (s : State) (target : Word) : (s.jump target).epsw3 = s.epsw3 := rfl
@[simp] theorem jump_sp (s : State) (target : Word) : (s.jump target).sp = s.sp := rfl
@[simp] theorem jump_ea (s : State) (target : Word) : (s.jump target).ea = s.ea := rfl
@[simp] theorem jump_ar (s : State) (target : Word) : (s.jump target).ar = s.ar := rfl
@[simp] theorem jump_dsr (s : State) (target : Word) : (s.jump target).dsr = s.dsr := rfl
@[simp] theorem jump_dsrPrefix (s : State) (target : Word) :
    (s.jump target).dsrPrefix = false := rfl
@[simp] theorem jump_intBlock (s : State) (target : Word) : (s.jump target).intBlock = false := rfl
@[simp] theorem jump_eiWindow (s : State) (target : Word) :
    (s.jump target).eiWindow = s.eiWindow := rfl
@[simp] theorem jump_code (s : State) (target : Word) : (s.jump target).code = s.code := rfl
@[simp] theorem jump_data (s : State) (target : Word) : (s.jump target).data = s.data := rfl
@[simp] theorem jump_deviceLog (s : State) (target : Word) :
    (s.jump target).deviceLog = s.deviceLog := rfl
@[simp] theorem jump_inputs (s : State) (target : Word) : (s.jump target).inputs = s.inputs := rfl
@[simp] theorem jump_ack (s : State) (target : Word) : (s.jump target).ack = s.ack := rfl
@[simp] theorem jump_draws (s : State) (target : Word) : (s.jump target).draws = s.draws := rfl

/-! ## tick -/

@[simp] theorem tick_cfg (s : State) : (s.tick).cfg = s.cfg := rfl
@[simp] theorem tick_regs (s : State) : (s.tick).regs = s.regs := rfl
@[simp] theorem tick_cregs (s : State) : (s.tick).cregs = s.cregs := rfl
@[simp] theorem tick_psw (s : State) : (s.tick).psw = s.psw := rfl
@[simp] theorem tick_pc (s : State) : (s.tick).pc = s.pc := rfl
@[simp] theorem tick_csr (s : State) : (s.tick).csr = s.csr := rfl
@[simp] theorem tick_lr (s : State) : (s.tick).lr = s.lr := rfl
@[simp] theorem tick_lcsr (s : State) : (s.tick).lcsr = s.lcsr := rfl
@[simp] theorem tick_elr1 (s : State) : (s.tick).elr1 = s.elr1 := rfl
@[simp] theorem tick_elr2 (s : State) : (s.tick).elr2 = s.elr2 := rfl
@[simp] theorem tick_elr3 (s : State) : (s.tick).elr3 = s.elr3 := rfl
@[simp] theorem tick_ecsr1 (s : State) : (s.tick).ecsr1 = s.ecsr1 := rfl
@[simp] theorem tick_ecsr2 (s : State) : (s.tick).ecsr2 = s.ecsr2 := rfl
@[simp] theorem tick_ecsr3 (s : State) : (s.tick).ecsr3 = s.ecsr3 := rfl
@[simp] theorem tick_epsw1 (s : State) : (s.tick).epsw1 = s.epsw1 := rfl
@[simp] theorem tick_epsw2 (s : State) : (s.tick).epsw2 = s.epsw2 := rfl
@[simp] theorem tick_epsw3 (s : State) : (s.tick).epsw3 = s.epsw3 := rfl
@[simp] theorem tick_sp (s : State) : (s.tick).sp = s.sp := rfl
@[simp] theorem tick_ea (s : State) : (s.tick).ea = s.ea := rfl
@[simp] theorem tick_ar (s : State) : (s.tick).ar = s.ar := rfl
@[simp] theorem tick_dsr (s : State) : (s.tick).dsr = s.dsr := rfl
@[simp] theorem tick_dsrPrefix (s : State) : (s.tick).dsrPrefix = s.dsrPrefix := rfl
@[simp] theorem tick_intBlock (s : State) : (s.tick).intBlock = s.intBlock := rfl
@[simp] theorem tick_eiWindow (s : State) : (s.tick).eiWindow = s.eiWindow - 1 := rfl
@[simp] theorem tick_code (s : State) : (s.tick).code = s.code := rfl
@[simp] theorem tick_data (s : State) : (s.tick).data = s.data := rfl
@[simp] theorem tick_deviceLog (s : State) : (s.tick).deviceLog = s.deviceLog ++ [.boundary] := rfl
@[simp] theorem tick_inputs (s : State) : (s.tick).inputs = s.inputs.tail := rfl
@[simp] theorem tick_ack (s : State) : (s.tick).ack = none := rfl
@[simp] theorem tick_draws (s : State) : (s.tick).draws = s.draws := rfl

/-! ## setRBytes -/

@[simp] theorem setRBytes_cfg (s : State) (n : RegNo) (bs : List Byte) :
    (s.setRBytes n bs).cfg = s.cfg := by
  induction bs generalizing s n with
  | nil => rfl
  | cons b bs ih => exact (ih _ _)

@[simp] theorem setRBytes_cregs (s : State) (n : RegNo) (bs : List Byte) :
    (s.setRBytes n bs).cregs = s.cregs := by
  induction bs generalizing s n with
  | nil => rfl
  | cons b bs ih => exact (ih _ _)

@[simp] theorem setRBytes_psw (s : State) (n : RegNo) (bs : List Byte) :
    (s.setRBytes n bs).psw = s.psw := by
  induction bs generalizing s n with
  | nil => rfl
  | cons b bs ih => exact (ih _ _)

@[simp] theorem setRBytes_pc (s : State) (n : RegNo) (bs : List Byte) :
    (s.setRBytes n bs).pc = s.pc := by
  induction bs generalizing s n with
  | nil => rfl
  | cons b bs ih => exact (ih _ _)

@[simp] theorem setRBytes_csr (s : State) (n : RegNo) (bs : List Byte) :
    (s.setRBytes n bs).csr = s.csr := by
  induction bs generalizing s n with
  | nil => rfl
  | cons b bs ih => exact (ih _ _)

@[simp] theorem setRBytes_lr (s : State) (n : RegNo) (bs : List Byte) :
    (s.setRBytes n bs).lr = s.lr := by
  induction bs generalizing s n with
  | nil => rfl
  | cons b bs ih => exact (ih _ _)

@[simp] theorem setRBytes_lcsr (s : State) (n : RegNo) (bs : List Byte) :
    (s.setRBytes n bs).lcsr = s.lcsr := by
  induction bs generalizing s n with
  | nil => rfl
  | cons b bs ih => exact (ih _ _)

@[simp] theorem setRBytes_elr1 (s : State) (n : RegNo) (bs : List Byte) :
    (s.setRBytes n bs).elr1 = s.elr1 := by
  induction bs generalizing s n with
  | nil => rfl
  | cons b bs ih => exact (ih _ _)

@[simp] theorem setRBytes_elr2 (s : State) (n : RegNo) (bs : List Byte) :
    (s.setRBytes n bs).elr2 = s.elr2 := by
  induction bs generalizing s n with
  | nil => rfl
  | cons b bs ih => exact (ih _ _)

@[simp] theorem setRBytes_elr3 (s : State) (n : RegNo) (bs : List Byte) :
    (s.setRBytes n bs).elr3 = s.elr3 := by
  induction bs generalizing s n with
  | nil => rfl
  | cons b bs ih => exact (ih _ _)

@[simp] theorem setRBytes_ecsr1 (s : State) (n : RegNo) (bs : List Byte) :
    (s.setRBytes n bs).ecsr1 = s.ecsr1 := by
  induction bs generalizing s n with
  | nil => rfl
  | cons b bs ih => exact (ih _ _)

@[simp] theorem setRBytes_ecsr2 (s : State) (n : RegNo) (bs : List Byte) :
    (s.setRBytes n bs).ecsr2 = s.ecsr2 := by
  induction bs generalizing s n with
  | nil => rfl
  | cons b bs ih => exact (ih _ _)

@[simp] theorem setRBytes_ecsr3 (s : State) (n : RegNo) (bs : List Byte) :
    (s.setRBytes n bs).ecsr3 = s.ecsr3 := by
  induction bs generalizing s n with
  | nil => rfl
  | cons b bs ih => exact (ih _ _)

@[simp] theorem setRBytes_epsw1 (s : State) (n : RegNo) (bs : List Byte) :
    (s.setRBytes n bs).epsw1 = s.epsw1 := by
  induction bs generalizing s n with
  | nil => rfl
  | cons b bs ih => exact (ih _ _)

@[simp] theorem setRBytes_epsw2 (s : State) (n : RegNo) (bs : List Byte) :
    (s.setRBytes n bs).epsw2 = s.epsw2 := by
  induction bs generalizing s n with
  | nil => rfl
  | cons b bs ih => exact (ih _ _)

@[simp] theorem setRBytes_epsw3 (s : State) (n : RegNo) (bs : List Byte) :
    (s.setRBytes n bs).epsw3 = s.epsw3 := by
  induction bs generalizing s n with
  | nil => rfl
  | cons b bs ih => exact (ih _ _)

@[simp] theorem setRBytes_sp (s : State) (n : RegNo) (bs : List Byte) :
    (s.setRBytes n bs).sp = s.sp := by
  induction bs generalizing s n with
  | nil => rfl
  | cons b bs ih => exact (ih _ _)

@[simp] theorem setRBytes_ea (s : State) (n : RegNo) (bs : List Byte) :
    (s.setRBytes n bs).ea = s.ea := by
  induction bs generalizing s n with
  | nil => rfl
  | cons b bs ih => exact (ih _ _)

@[simp] theorem setRBytes_ar (s : State) (n : RegNo) (bs : List Byte) :
    (s.setRBytes n bs).ar = s.ar := by
  induction bs generalizing s n with
  | nil => rfl
  | cons b bs ih => exact (ih _ _)

@[simp] theorem setRBytes_dsr (s : State) (n : RegNo) (bs : List Byte) :
    (s.setRBytes n bs).dsr = s.dsr := by
  induction bs generalizing s n with
  | nil => rfl
  | cons b bs ih => exact (ih _ _)

@[simp] theorem setRBytes_dsrPrefix (s : State) (n : RegNo) (bs : List Byte) :
    (s.setRBytes n bs).dsrPrefix = s.dsrPrefix := by
  induction bs generalizing s n with
  | nil => rfl
  | cons b bs ih => exact (ih _ _)

@[simp] theorem setRBytes_intBlock (s : State) (n : RegNo) (bs : List Byte) :
    (s.setRBytes n bs).intBlock = s.intBlock := by
  induction bs generalizing s n with
  | nil => rfl
  | cons b bs ih => exact (ih _ _)

@[simp] theorem setRBytes_eiWindow (s : State) (n : RegNo) (bs : List Byte) :
    (s.setRBytes n bs).eiWindow = s.eiWindow := by
  induction bs generalizing s n with
  | nil => rfl
  | cons b bs ih => exact (ih _ _)

@[simp] theorem setRBytes_code (s : State) (n : RegNo) (bs : List Byte) :
    (s.setRBytes n bs).code = s.code := by
  induction bs generalizing s n with
  | nil => rfl
  | cons b bs ih => exact (ih _ _)

@[simp] theorem setRBytes_data (s : State) (n : RegNo) (bs : List Byte) :
    (s.setRBytes n bs).data = s.data := by
  induction bs generalizing s n with
  | nil => rfl
  | cons b bs ih => exact (ih _ _)

@[simp] theorem setRBytes_deviceLog (s : State) (n : RegNo) (bs : List Byte) :
    (s.setRBytes n bs).deviceLog = s.deviceLog := by
  induction bs generalizing s n with
  | nil => rfl
  | cons b bs ih => exact (ih _ _)

@[simp] theorem setRBytes_inputs (s : State) (n : RegNo) (bs : List Byte) :
    (s.setRBytes n bs).inputs = s.inputs := by
  induction bs generalizing s n with
  | nil => rfl
  | cons b bs ih => exact (ih _ _)

@[simp] theorem setRBytes_ack (s : State) (n : RegNo) (bs : List Byte) :
    (s.setRBytes n bs).ack = s.ack := by
  induction bs generalizing s n with
  | nil => rfl
  | cons b bs ih => exact (ih _ _)

@[simp] theorem setRBytes_draws (s : State) (n : RegNo) (bs : List Byte) :
    (s.setRBytes n bs).draws = s.draws := by
  induction bs generalizing s n with
  | nil => rfl
  | cons b bs ih => exact (ih _ _)

/-! ## setCrBytes -/

@[simp] theorem setCrBytes_cfg (s : State) (n : RegNo) (bs : List Byte) :
    (s.setCrBytes n bs).cfg = s.cfg := by
  induction bs generalizing s n with
  | nil => rfl
  | cons b bs ih => exact (ih _ _)

@[simp] theorem setCrBytes_regs (s : State) (n : RegNo) (bs : List Byte) :
    (s.setCrBytes n bs).regs = s.regs := by
  induction bs generalizing s n with
  | nil => rfl
  | cons b bs ih => exact (ih _ _)

@[simp] theorem setCrBytes_psw (s : State) (n : RegNo) (bs : List Byte) :
    (s.setCrBytes n bs).psw = s.psw := by
  induction bs generalizing s n with
  | nil => rfl
  | cons b bs ih => exact (ih _ _)

@[simp] theorem setCrBytes_pc (s : State) (n : RegNo) (bs : List Byte) :
    (s.setCrBytes n bs).pc = s.pc := by
  induction bs generalizing s n with
  | nil => rfl
  | cons b bs ih => exact (ih _ _)

@[simp] theorem setCrBytes_csr (s : State) (n : RegNo) (bs : List Byte) :
    (s.setCrBytes n bs).csr = s.csr := by
  induction bs generalizing s n with
  | nil => rfl
  | cons b bs ih => exact (ih _ _)

@[simp] theorem setCrBytes_lr (s : State) (n : RegNo) (bs : List Byte) :
    (s.setCrBytes n bs).lr = s.lr := by
  induction bs generalizing s n with
  | nil => rfl
  | cons b bs ih => exact (ih _ _)

@[simp] theorem setCrBytes_lcsr (s : State) (n : RegNo) (bs : List Byte) :
    (s.setCrBytes n bs).lcsr = s.lcsr := by
  induction bs generalizing s n with
  | nil => rfl
  | cons b bs ih => exact (ih _ _)

@[simp] theorem setCrBytes_elr1 (s : State) (n : RegNo) (bs : List Byte) :
    (s.setCrBytes n bs).elr1 = s.elr1 := by
  induction bs generalizing s n with
  | nil => rfl
  | cons b bs ih => exact (ih _ _)

@[simp] theorem setCrBytes_elr2 (s : State) (n : RegNo) (bs : List Byte) :
    (s.setCrBytes n bs).elr2 = s.elr2 := by
  induction bs generalizing s n with
  | nil => rfl
  | cons b bs ih => exact (ih _ _)

@[simp] theorem setCrBytes_elr3 (s : State) (n : RegNo) (bs : List Byte) :
    (s.setCrBytes n bs).elr3 = s.elr3 := by
  induction bs generalizing s n with
  | nil => rfl
  | cons b bs ih => exact (ih _ _)

@[simp] theorem setCrBytes_ecsr1 (s : State) (n : RegNo) (bs : List Byte) :
    (s.setCrBytes n bs).ecsr1 = s.ecsr1 := by
  induction bs generalizing s n with
  | nil => rfl
  | cons b bs ih => exact (ih _ _)

@[simp] theorem setCrBytes_ecsr2 (s : State) (n : RegNo) (bs : List Byte) :
    (s.setCrBytes n bs).ecsr2 = s.ecsr2 := by
  induction bs generalizing s n with
  | nil => rfl
  | cons b bs ih => exact (ih _ _)

@[simp] theorem setCrBytes_ecsr3 (s : State) (n : RegNo) (bs : List Byte) :
    (s.setCrBytes n bs).ecsr3 = s.ecsr3 := by
  induction bs generalizing s n with
  | nil => rfl
  | cons b bs ih => exact (ih _ _)

@[simp] theorem setCrBytes_epsw1 (s : State) (n : RegNo) (bs : List Byte) :
    (s.setCrBytes n bs).epsw1 = s.epsw1 := by
  induction bs generalizing s n with
  | nil => rfl
  | cons b bs ih => exact (ih _ _)

@[simp] theorem setCrBytes_epsw2 (s : State) (n : RegNo) (bs : List Byte) :
    (s.setCrBytes n bs).epsw2 = s.epsw2 := by
  induction bs generalizing s n with
  | nil => rfl
  | cons b bs ih => exact (ih _ _)

@[simp] theorem setCrBytes_epsw3 (s : State) (n : RegNo) (bs : List Byte) :
    (s.setCrBytes n bs).epsw3 = s.epsw3 := by
  induction bs generalizing s n with
  | nil => rfl
  | cons b bs ih => exact (ih _ _)

@[simp] theorem setCrBytes_sp (s : State) (n : RegNo) (bs : List Byte) :
    (s.setCrBytes n bs).sp = s.sp := by
  induction bs generalizing s n with
  | nil => rfl
  | cons b bs ih => exact (ih _ _)

@[simp] theorem setCrBytes_ea (s : State) (n : RegNo) (bs : List Byte) :
    (s.setCrBytes n bs).ea = s.ea := by
  induction bs generalizing s n with
  | nil => rfl
  | cons b bs ih => exact (ih _ _)

@[simp] theorem setCrBytes_ar (s : State) (n : RegNo) (bs : List Byte) :
    (s.setCrBytes n bs).ar = s.ar := by
  induction bs generalizing s n with
  | nil => rfl
  | cons b bs ih => exact (ih _ _)

@[simp] theorem setCrBytes_dsr (s : State) (n : RegNo) (bs : List Byte) :
    (s.setCrBytes n bs).dsr = s.dsr := by
  induction bs generalizing s n with
  | nil => rfl
  | cons b bs ih => exact (ih _ _)

@[simp] theorem setCrBytes_dsrPrefix (s : State) (n : RegNo) (bs : List Byte) :
    (s.setCrBytes n bs).dsrPrefix = s.dsrPrefix := by
  induction bs generalizing s n with
  | nil => rfl
  | cons b bs ih => exact (ih _ _)

@[simp] theorem setCrBytes_intBlock (s : State) (n : RegNo) (bs : List Byte) :
    (s.setCrBytes n bs).intBlock = s.intBlock := by
  induction bs generalizing s n with
  | nil => rfl
  | cons b bs ih => exact (ih _ _)

@[simp] theorem setCrBytes_eiWindow (s : State) (n : RegNo) (bs : List Byte) :
    (s.setCrBytes n bs).eiWindow = s.eiWindow := by
  induction bs generalizing s n with
  | nil => rfl
  | cons b bs ih => exact (ih _ _)

@[simp] theorem setCrBytes_code (s : State) (n : RegNo) (bs : List Byte) :
    (s.setCrBytes n bs).code = s.code := by
  induction bs generalizing s n with
  | nil => rfl
  | cons b bs ih => exact (ih _ _)

@[simp] theorem setCrBytes_data (s : State) (n : RegNo) (bs : List Byte) :
    (s.setCrBytes n bs).data = s.data := by
  induction bs generalizing s n with
  | nil => rfl
  | cons b bs ih => exact (ih _ _)

@[simp] theorem setCrBytes_deviceLog (s : State) (n : RegNo) (bs : List Byte) :
    (s.setCrBytes n bs).deviceLog = s.deviceLog := by
  induction bs generalizing s n with
  | nil => rfl
  | cons b bs ih => exact (ih _ _)

@[simp] theorem setCrBytes_inputs (s : State) (n : RegNo) (bs : List Byte) :
    (s.setCrBytes n bs).inputs = s.inputs := by
  induction bs generalizing s n with
  | nil => rfl
  | cons b bs ih => exact (ih _ _)

@[simp] theorem setCrBytes_ack (s : State) (n : RegNo) (bs : List Byte) :
    (s.setCrBytes n bs).ack = s.ack := by
  induction bs generalizing s n with
  | nil => rfl
  | cons b bs ih => exact (ih _ _)

@[simp] theorem setCrBytes_draws (s : State) (n : RegNo) (bs : List Byte) :
    (s.setCrBytes n bs).draws = s.draws := by
  induction bs generalizing s n with
  | nil => rfl
  | cons b bs ih => exact (ih _ _)

end Sys2Proof.Machine
end

