-- ==== Sys2Proof/Laws/Registers.lean ====
section
/-! SUPPORT. Registers and the PSW: what each accessor reads after each write. -/

namespace Sys2Proof.Machine

/-! ## Words and bytes -/

theorem mkWord_getLsbD (hi lo : Byte) (i : Nat) :
    (mkWord hi lo).getLsbD i = if i < 8 then lo.getLsbD i else hi.getLsbD (i - 8) :=
  (BitVec.getLsbD_append (x := hi) (y := lo) (i := i)).trans (by split <;> simp_all)

@[simp] theorem loByte_mkWord (hi lo : Byte) : loByte (mkWord hi lo) = lo := by
  apply BitVec.eq_of_getLsbD_eq
  intro i h
  simp only [loByte, BitVec.getLsbD_extractLsb', mkWord_getLsbD]
  simp [h]

@[simp] theorem hiByte_mkWord (hi lo : Byte) : hiByte (mkWord hi lo) = hi := by
  apply BitVec.eq_of_getLsbD_eq
  intro i h
  simp only [hiByte, BitVec.getLsbD_extractLsb', mkWord_getLsbD]
  simp [h]

@[simp] theorem mkWord_hi_lo (w : Word) : mkWord (hiByte w) (loByte w) = w := by
  apply BitVec.eq_of_getLsbD_eq
  intro i h
  simp only [hiByte, loByte, mkWord_getLsbD, BitVec.getLsbD_extractLsb']
  split
  · next h8 => simp [h8]
  · next h8 =>
    rw [show 8 + (i - 8) = i by omega]
    simp [show i - 8 < 8 by omega]

theorem evenAddr_getLsbD_zero (a : Word) : (evenAddr a).getLsbD 0 = false := by
  simp [evenAddr]

@[simp] theorem evenAddr_evenAddr (a : Word) : evenAddr (evenAddr a) = evenAddr a := by
  unfold evenAddr
  rw [BitVec.and_assoc]
  rfl

theorem succ_ne_self (n : RegNo) : n + 1 ≠ n := by
  revert n
  decide

theorem sub_succ_self_toNat (n : RegNo) : (n - (n + 1)).toNat = 15 := by
  revert n
  decide

theorem sub_toNat_of_ne (k n : RegNo) (h : k ≠ n) : (k - n).toNat = (k - (n + 1)).toNat + 1 := by
  revert k n
  decide

/-! ## General registers -/

@[simp] theorem r_setR_same (s : State) (n : RegNo) (v : Byte) : (s.setR n v).r n = v := by
  simp [State.r, State.setR, Vector.get_eq_getElem]

theorem r_setR_ne (s : State) {n k : RegNo} (v : Byte) (h : k ≠ n) : (s.setR n v).r k = s.r k := by
  have h' : ¬ n.toNat = k.toNat := fun e => h (BitVec.eq_of_toNat_eq e.symm)
  simp [State.r, State.setR, Vector.get_eq_getElem, h']

theorem r_setR (s : State) (n k : RegNo) (v : Byte) :
    (s.setR n v).r k = if k = n then v else s.r k := by
  split
  · next h => rw [h, r_setR_same]
  · next h => exact r_setR_ne s v h

/-- Reading a byte register looks at the register file alone. -/
theorem r_congr {s t : State} (h : t.regs = s.regs) (n : RegNo) : t.r n = s.r n := by
  simp [State.r, h]

theorem r_setEr (s : State) (n k : RegNo) (v : Word) :
    (s.setEr n v).r k = if k = n + 1 then hiByte v else if k = n then loByte v else s.r k := by
  simp only [State.setEr, r_setR]

@[simp] theorem er_setEr_same (s : State) (n : RegNo) (v : Word) : (s.setEr n v).er n = v := by
  simp only [State.er, r_setEr, if_true, if_neg (succ_ne_self n).symm, mkWord_hi_lo]

/-- What the registers hold after the bytes of a list are written from `n` on, the list being no longer
than the register file. -/
theorem r_setRBytes (s : State) (n k : RegNo) (bs : List Byte) (h : bs.length ≤ 16) :
    (s.setRBytes n bs).r k = (bs[(k - n).toNat]?).getD (s.r k) := by
  induction bs generalizing s n with
  | nil => simp [State.setRBytes]
  | cons b bs ih =>
    simp only [State.setRBytes, List.length_cons] at *
    rw [ih _ _ (by omega), r_setR]
    by_cases hk : k = n
    · subst hk
      rw [sub_succ_self_toNat]
      simp [List.getElem?_eq_none (show bs.length ≤ 15 by omega)]
    · have := sub_toNat_of_ne k n hk
      simp [hk, this]

theorem rBytes_length (s : State) (n : RegNo) (k : Nat) : (s.rBytes n k).length = k := by
  induction k generalizing n with
  | zero => rfl
  | succ k ih => simp [State.rBytes, ih]

theorem rBytes_getElem? (s : State) (n : RegNo) (k i : Nat) (h : i < k) :
    (s.rBytes n k)[i]? = some (s.r (n + BitVec.ofNat 4 i)) := by
  induction k generalizing n i with
  | zero => omega
  | succ k ih =>
    cases i with
    | zero => simp [State.rBytes]
    | succ i =>
      simp only [State.rBytes, List.getElem?_cons_succ]
      rw [ih _ _ (by omega), show n + 1 + BitVec.ofNat 4 i = n + BitVec.ofNat 4 (i + 1) by
        rw [BitVec.add_assoc]; congr 1; apply BitVec.eq_of_toNat_eq; simp; omega]

/-! ## Coprocessor registers -/

@[simp] theorem cr_setCr_same (s : State) (n : RegNo) (v : Byte) : (s.setCr n v).cr n = v := by
  simp [State.cr, State.setCr, Vector.get_eq_getElem]

theorem cr_setCr (s : State) (n k : RegNo) (v : Byte) :
    (s.setCr n v).cr k = if k = n then v else s.cr k := by
  split
  · next h => rw [h, cr_setCr_same]
  · next h =>
    have h' : ¬ n.toNat = k.toNat := fun e => h (BitVec.eq_of_toNat_eq e.symm)
    simp [State.cr, State.setCr, Vector.get_eq_getElem, h']

theorem cr_congr {s t : State} (h : t.cregs = s.cregs) (n : RegNo) : t.cr n = s.cr n := by
  simp [State.cr, h]

theorem cr_setCrBytes (s : State) (n k : RegNo) (bs : List Byte) (h : bs.length ≤ 16) :
    (s.setCrBytes n bs).cr k = (bs[(k - n).toNat]?).getD (s.cr k) := by
  induction bs generalizing s n with
  | nil => simp [State.setCrBytes]
  | cons b bs ih =>
    simp only [State.setCrBytes, List.length_cons] at *
    rw [ih _ _ (by omega), cr_setCr]
    by_cases hk : k = n
    · subst hk
      rw [sub_succ_self_toNat]
      simp [List.getElem?_eq_none (show bs.length ≤ 15 by omega)]
    · have := sub_toNat_of_ne k n hk
      simp [hk, this]

theorem crBytes_length (s : State) (n : RegNo) (k : Nat) : (s.crBytes n k).length = k := by
  induction k generalizing n with
  | zero => rfl
  | succ k ih => simp [State.crBytes, ih]

theorem crBytes_getElem? (s : State) (n : RegNo) (k i : Nat) (h : i < k) :
    (s.crBytes n k)[i]? = some (s.cr (n + BitVec.ofNat 4 i)) := by
  induction k generalizing n i with
  | zero => omega
  | succ k ih =>
    cases i with
    | zero => simp [State.crBytes]
    | succ i =>
      simp only [State.crBytes, List.getElem?_cons_succ]
      rw [ih _ _ (by omega), show n + 1 + BitVec.ofNat 4 i = n + BitVec.ofNat 4 (i + 1) by
        rw [BitVec.add_assoc]; congr 1; apply BitVec.eq_of_toNat_eq; simp; omega]

/-! ## The PSW -/

theorem getFlag_setFlag (p : Byte) (f g : Flag) (v : Bool) :
    getFlag (setFlag p f v) g = if g = f then v else getFlag p g := by
  revert p
  cases f <;> cases g <;> cases v <;> decide

theorem elevel_setFlag (p : Byte) (f : Flag) (v : Bool) : elevel (setFlag p f v) = elevel p := by
  revert p
  cases f <;> cases v <;> decide

theorem getFlag_setElevel (p : Byte) (k : BitVec 2) (f : Flag) :
    getFlag (setElevel p k) f = getFlag p f := by
  revert p k
  cases f <;> decide

theorem elevel_setElevel (p : Byte) (k : BitVec 2) : elevel (setElevel p k) = k := by
  revert p k
  decide

/-- Two PSW values with the same fields are the same. -/
theorem psw_ext {p q : Byte} (hf : ∀ f, getFlag p f = getFlag q f) (hk : elevel p = elevel q) :
    p = q := by
  have h0 : p.extractLsb' 0 2 = q.extractLsb' 0 2 := hk
  have b0 : p.getLsbD 0 = q.getLsbD 0 := by
    simpa using congrArg (fun x : BitVec 2 => x.getLsbD 0) h0
  have b1 : p.getLsbD 1 = q.getLsbD 1 := by
    simpa using congrArg (fun x : BitVec 2 => x.getLsbD 1) h0
  have b2 := hf .hc
  have b3 := hf .mie
  have b4 := hf .ov
  have b5 := hf .s
  have b6 := hf .z
  have b7 := hf .c
  simp only [getFlag, Flag.bit] at b2 b3 b4 b5 b6 b7
  apply BitVec.eq_of_getLsbD_eq
  intro i hi
  interval_cases i <;> assumption

/-- The fields after an arithmetic instruction. -/
theorem pswArith_fields {w : Nat} (p : Byte) (x : AluResult w) :
    PswIs (pswArith p x) x.c x.z x.s x.ov (getFlag p .mie) x.hc (elevel p) := by
  simp [PswIs, pswArith, getFlag_setFlag, elevel_setFlag]

/-- The fields after an arithmetic instruction with carry. -/
theorem pswArithCarry_fields {w : Nat} (p : Byte) (x : AluResult w) :
    PswIs (pswArithCarry p x) x.c (getFlag p .z && x.z) x.s x.ov (getFlag p .mie) x.hc
      (elevel p) := by
  simp [PswIs, pswArithCarry, pswArith, getFlag_setFlag, elevel_setFlag]

/-- The fields after INC and DEC. -/
theorem pswArithKeepC_fields {w : Nat} (p : Byte) (x : AluResult w) :
    PswIs (pswArithKeepC p x) (getFlag p .c) x.z x.s x.ov (getFlag p .mie) x.hc (elevel p) := by
  simp [PswIs, pswArithKeepC, getFlag_setFlag, elevel_setFlag]

/-- The fields after an instruction that writes Z and S. -/
theorem pswZS_fields (p : Byte) (z s : Bool) :
    PswIs (pswZS p z s) (getFlag p .c) z s (getFlag p .ov) (getFlag p .mie) (getFlag p .hc)
      (elevel p) := by
  simp [PswIs, pswZS, getFlag_setFlag, elevel_setFlag]

/-- The fields after DAA and DAS. -/
theorem pswDecimal_fields (p : Byte) (x : DecimalResult) :
    PswIs (pswDecimal p x) x.c (x.value == 0) x.value.msb (getFlag p .ov) (getFlag p .mie) x.hc
      (elevel p) := by
  simp [PswIs, pswDecimal, getFlag_setFlag, elevel_setFlag]

/-! ## Segment registers in the SMALL model -/

theorem segRead_small {s : State} (h : s.cfg.model = .small) (v : Nibble) : s.segRead v = 0x0#4 := by
  simp [State.segRead, State.isLarge, h]

theorem segWrite_small {s : State} (h : s.cfg.model = .small) (old v : Nibble) :
    s.segWrite old v = old := by
  simp [State.segWrite, State.isLarge, h]

theorem segRead_large {s : State} (h : s.cfg.model = .large) (v : Nibble) : s.segRead v = v := by
  simp [State.segRead, State.isLarge, h]

theorem segWrite_large {s : State} (h : s.cfg.model = .large) (old v : Nibble) :
    s.segWrite old v = v := by
  simp [State.segWrite, State.isLarge, h]

/-! ## Writing a list of registers changes the registers alone -/

theorem setRBytes_eq (s : State) (n : RegNo) (bs : List Byte) :
    s.setRBytes n bs = { s with regs := (s.setRBytes n bs).regs } := by
  induction bs generalizing s n with
  | nil => rfl
  | cons b bs ih => rw [State.setRBytes, ih]; rfl

theorem setRBytes_regs_congr {s t : State} (h : t.regs = s.regs) (n : RegNo) (bs : List Byte) :
    (t.setRBytes n bs).regs = (s.setRBytes n bs).regs := by
  induction bs generalizing s t n with
  | nil => exact h
  | cons b bs ih => exact ih (by simp [h]) _

theorem setCrBytes_eq (s : State) (n : RegNo) (bs : List Byte) :
    s.setCrBytes n bs = { s with cregs := (s.setCrBytes n bs).cregs } := by
  induction bs generalizing s n with
  | nil => rfl
  | cons b bs ih => rw [State.setCrBytes, ih]; rfl

theorem setCrBytes_cregs_congr {s t : State} (h : t.cregs = s.cregs) (n : RegNo) (bs : List Byte) :
    (t.setCrBytes n bs).cregs = (s.setCrBytes n bs).cregs := by
  induction bs generalizing s t n with
  | nil => exact h
  | cons b bs ih => exact ih (by simp [h]) _

end Sys2Proof.Machine
end

