-- ==== Sys2Proof/Laws/Memory.lean ====
section
/-! SUPPORT. Memory: a read after a write, and that every memory operation keeps the canonical form. -/

namespace Sys2Proof.Machine

/-! ## Reading after writing -/

theorem read_erase (m : Memory) (a b : Nat) :
    (m.erase a).read b = if b = a then blankByte else m.read b := by
  induction m with
  | nil => simp [Memory.erase, Memory.read]
  | cons c m ih =>
    obtain ⟨k, v⟩ := c
    simp only [Memory.erase, List.filter_cons] at *
    by_cases hk : k = a
    · subst hk
      simp only [bne_self_eq_false, Bool.false_eq_true, if_false, ih, Memory.read]
      split <;> rename_i h
      · rfl
      · rw [if_neg (fun e => h e.symm)]
    · simp only [bne_iff_ne, ne_eq, hk, not_false_eq_true, if_true, Memory.read, ih]
      by_cases hb : k = b
      · subst hb; simp [hk]
      · simp [hb]

theorem read_insert (m : Memory) (a b : Nat) (v : Byte) (h : m.all (fun c => c.1 != a) = true) :
    (m.insert a v).read b = if b = a then v else m.read b := by
  induction m with
  | nil => simp [Memory.insert, Memory.read, eq_comm]
  | cons c m ih =>
    obtain ⟨k, w⟩ := c
    simp only [List.all_cons, Bool.and_eq_true, bne_iff_ne, ne_eq] at h
    simp only [Memory.insert]
    split
    · simp [Memory.read, eq_comm]
    · simp only [Memory.read, ih h.2]
      by_cases hb : k = b
      · subst hb; simp [h.1]
      · simp [hb]

theorem erase_all_ne (m : Memory) (a : Nat) : (m.erase a).all (fun c => c.1 != a) = true := by
  simp [Memory.erase]

/-- A byte of memory after a write. -/
theorem read_write (m : Memory) (a b : Nat) (v : Byte) :
    (m.write a v).read b = if b = a then v else m.read b := by
  unfold Memory.write
  split
  · next h => rw [read_erase, h]
  · rw [read_insert _ _ _ _ (erase_all_ne m a), read_erase]
    split <;> simp_all

@[simp] theorem read_write_same (m : Memory) (a : Nat) (v : Byte) : (m.write a v).read a = v := by
  rw [read_write, if_pos rfl]

theorem read_write_ne (m : Memory) {a b : Nat} (v : Byte) (h : b ≠ a) :
    (m.write a v).read b = m.read b := by
  rw [read_write, if_neg h]

/-! ## The canonical form -/

theorem all_filter {α : Type} (p q : α → Bool) (l : List α) (h : l.all p = true) :
    (l.filter q).all p = true := by
  simp only [List.all_eq_true, List.mem_filter] at *
  exact fun x hx => h x hx.1

theorem erase_wf (m : Memory) (a : Nat) (h : m.wf = true) : (m.erase a).wf = true := by
  induction m with
  | nil => rfl
  | cons c m ih =>
    obtain ⟨k, v⟩ := c
    simp only [Memory.wf, Bool.and_eq_true] at h
    simp only [Memory.erase, List.filter_cons] at *
    split
    · simp only [Memory.wf, Bool.and_eq_true]
      exact ⟨⟨h.1.1, all_filter _ _ _ h.1.2⟩, ih h.2⟩
    · exact ih h.2

theorem insert_all (m : Memory) (a : Nat) (v : Byte) (p : Host.Cell → Bool) (h : m.all p = true)
    (ha : p (a, v) = true) : (m.insert a v).all p = true := by
  induction m with
  | nil => simp [Memory.insert, ha]
  | cons c m ih =>
    obtain ⟨k, w⟩ := c
    simp only [List.all_cons, Bool.and_eq_true] at h
    simp only [Memory.insert]
    split
    · simp [ha, h.1, h.2]
    · simp only [List.all_cons, Bool.and_eq_true]
      exact ⟨h.1, ih h.2⟩

theorem insert_wf (m : Memory) (a : Nat) (v : Byte) (h : m.wf = true) (hv : v ≠ blankByte)
    (hne : m.all (fun c => c.1 != a) = true) : (m.insert a v).wf = true := by
  induction m with
  | nil => simp [Memory.insert, Memory.wf, hv]
  | cons c m ih =>
    obtain ⟨k, w⟩ := c
    simp only [List.all_cons, Bool.and_eq_true, bne_iff_ne, ne_eq] at hne
    simp only [Memory.wf, Bool.and_eq_true] at h
    simp only [Memory.insert]
    split
    · next hlt =>
      simp only [Memory.wf, List.all_cons, Bool.and_eq_true, bne_iff_ne, ne_eq, decide_eq_true_eq]
      refine ⟨⟨hv, hlt, ?_⟩, ⟨by simpa using h.1.1, h.1.2⟩, h.2⟩
      have := h.1.2
      simp only [List.all_eq_true, decide_eq_true_eq] at *
      exact fun x hx => lt_trans hlt (this x hx)
    · next hlt =>
      simp only [Memory.wf, Bool.and_eq_true]
      refine ⟨⟨h.1.1, insert_all _ _ _ _ h.1.2 ?_⟩, ih h.2 hne.2⟩
      simp only [decide_eq_true_eq]
      omega

/-- A write keeps the canonical form. -/
theorem write_wf (m : Memory) (a : Nat) (v : Byte) (h : m.wf = true) : (m.write a v).wf = true := by
  unfold Memory.write
  split
  · exact erase_wf m a h
  · next hv => exact insert_wf _ a v (erase_wf m a h) hv (erase_all_ne m a)

/-- A write below a bound keeps memory below it. -/
theorem write_below (m : Memory) (a : Nat) (v : Byte) (n : Nat) (h : m.below n = true)
    (ha : a < n) : (m.write a v).below n = true := by
  unfold Memory.write Memory.below at *
  split
  · exact all_filter _ _ _ h
  · exact insert_all _ _ _ _ (all_filter _ _ _ h) (by simpa using ha)

/-- Equal memories are equal data: two canonical memories that read alike are the same. -/
theorem wf_ext (m n : Memory) (hm : m.wf = true) (hn : n.wf = true)
    (h : ∀ a, m.read a = n.read a) : m = n := by
  have below : ∀ (l : Memory) (k : Nat), l.all (fun c => decide (k < c.1)) = true →
      ∀ a ≤ k, l.read a = blankByte := by
    intro l k hl a ha
    induction l with
    | nil => rfl
    | cons c l ih =>
      obtain ⟨j, v⟩ := c
      simp only [List.all_cons, Bool.and_eq_true, decide_eq_true_eq] at hl
      simp only [Memory.read]
      rw [if_neg (by omega)]
      exact ih hl.2
  induction m generalizing n with
  | nil =>
    cases n with
    | nil => rfl
    | cons c n =>
      obtain ⟨k, v⟩ := c
      simp only [Memory.wf, Bool.and_eq_true, bne_iff_ne, ne_eq] at hn
      have := h k
      simp only [Memory.read, if_true] at this
      exact absurd this.symm hn.1.1
  | cons c m ih =>
    obtain ⟨k, v⟩ := c
    simp only [Memory.wf, Bool.and_eq_true, bne_iff_ne, ne_eq] at hm
    cases n with
    | nil =>
      have := h k
      simp only [Memory.read, if_true] at this
      exact absurd this hm.1.1
    | cons d n =>
      obtain ⟨j, w⟩ := d
      simp only [Memory.wf, Bool.and_eq_true, bne_iff_ne, ne_eq] at hn
      have hkj : k = j := by
        rcases Nat.lt_trichotomy k j with hlt | heq | hgt
        · have := h k
          simp only [Memory.read, if_true] at this
          rw [if_neg (by omega), below n j hn.1.2 k (by omega)] at this
          exact absurd this hm.1.1
        · exact heq
        · have := h j
          simp only [Memory.read, if_true] at this
          rw [if_neg (by omega), below m k hm.1.2 j (by omega)] at this
          exact absurd this.symm hn.1.1
      subst hkj
      have hv : v = w := by simpa [Memory.read] using h k
      subst hv
      congr 1
      apply ih n hm.2 hn.2
      intro a
      by_cases ha : a = k
      · subst ha
        rw [below m a hm.1.2 a le_rfl, below n a hn.1.2 a le_rfl]
      · have := h a
        simpa [Memory.read, show ¬ k = a from fun e => ha e.symm] using this

end Sys2Proof.Machine
end

