-- ==== Sys2Proof/Laws/Ops.lean ====
section
/-! SUPPORT. For each shared operation, everything it can do, said once. -/

namespace Sys2Proof.Machine

/-! ## Outcomes -/

@[simp] theorem andThen_next {α β : Type} (a : α) (f : α → Res β) :
    andThen (.next a) f = f a := rfl
@[simp] theorem andThen_fault {α β : Type} (e : Fault) (f : α → Res β) :
    andThen (.fault e) f = .fault e := rfl
@[simp] theorem andThen_refused {α β : Type} (e : Refusal) (f : α → Res β) :
    andThen (.refused e) f = .refused e := rfl

/-- A sequence answers `next` exactly when both parts do. -/
theorem andThen_eq_next {α β : Type} {x : Res α} {f : α → Res β} {b : β} :
    andThen x f = .next b ↔ ∃ a, x = .next a ∧ f a = .next b := by
  cases x <;> simp [andThen]

theorem andThen_assoc {α β γ : Type} (x : Res α) (f : α → Res β) (g : β → Res γ) :
    andThen (andThen x f) g = andThen x fun a => andThen (f a) g := by
  cases x <;> rfl

/-! ## Addresses -/

theorem flatAddr_inj (g h : Byte) (o p : Word) :
    flatAddr g o = flatAddr h p ↔ g = h ∧ o = p := by
  unfold flatAddr
  have ho := o.isLt
  have hp := p.isLt
  constructor
  · intro e
    exact ⟨BitVec.eq_of_toNat_eq (by omega), BitVec.eq_of_toNat_eq (by omega)⟩
  · rintro ⟨rfl, rfl⟩
    rfl

theorem flatAddr_lt (g : Byte) (o : Word) : flatAddr g o < 16777216 := by
  unfold flatAddr
  have := o.isLt
  have := g.isLt
  omega

/-- Offsets that differ by less than the size of a segment differ. -/
theorem offset_inj (a : Word) {i j : Nat} (hi : i < 65536) (hj : j < 65536)
    (h : a + BitVec.ofNat 16 i = a + BitVec.ofNat 16 j) : i = j := by
  have := (BitVec.add_right_inj a).mp h
  have := congrArg BitVec.toNat this
  simp at this
  omega

theorem succ_offset (a : Word) (i : Nat) :
    a + 1#16 + BitVec.ofNat 16 i = a + BitVec.ofNat 16 (i + 1) := by
  rw [BitVec.add_assoc]
  congr 1
  apply BitVec.eq_of_toNat_eq
  simp
  omega

/-! ## One byte of memory -/

/-- A code byte depends on the parameters and the two memories alone. -/
theorem codeByte_congr {s t : State} (hcfg : t.cfg = s.cfg) (hcode : t.code = s.code)
    (hdata : t.data = s.data) (seg : Nibble) (off : Word) : t.codeByte seg off = s.codeByte seg off := by
  simp [State.codeByte, hcfg, hcode, hdata]

theorem codeRead16_congr {s t : State} (hcfg : t.cfg = s.cfg) (hcode : t.code = s.code)
    (hdata : t.data = s.data) (seg : Nibble) (off : Word) :
    t.codeRead16 seg off = s.codeRead16 seg off := by
  simp only [State.codeRead16, codeByte_congr hcfg hcode hdata]

/-- A data byte depends on the parameters, the two memories and what the devices have seen alone. -/
theorem readByte_congr {s t : State} (hcfg : t.cfg = s.cfg) (hcode : t.code = s.code)
    (hdata : t.data = s.data) (hlog : t.deviceLog = s.deviceLog) (seg : Byte) (off : Word) :
    t.readByte seg off = s.readByte seg off := by
  simp [State.readByte, hcfg, hdata, hlog, codeByte_congr hcfg hcode hdata]

/-- A data byte that is no device's depends on the parameters and the two memories alone. -/
theorem readByte_congr_memory {s t : State} (hcfg : t.cfg = s.cfg) (hcode : t.code = s.code)
    (hdata : t.data = s.data) {seg : Byte} {off : Word} (h : isDevice s.cfg seg off = false) :
    t.readByte seg off = s.readByte seg off := by
  unfold isDevice at h
  unfold State.readByte
  rw [hcfg, hdata]
  cases hp : dataPlace s.cfg seg off <;>
    simp_all [codeByte_congr hcfg hcode hdata]

theorem sameData_of_eq {s t : State} (hcfg : t.cfg = s.cfg) (hcode : t.code = s.code)
    (hdata : t.data = s.data) (hlog : t.deviceLog = s.deviceLog) : SameData s t :=
  fun g o => readByte_congr hcfg hcode hdata hlog g o

theorem sameMemory_of_eq {s t : State} (hcfg : t.cfg = s.cfg) (hcode : t.code = s.code)
    (hdata : t.data = s.data) : SameMemory s t :=
  fun _ _ h => readByte_congr_memory hcfg hcode hdata h

/-- What a device sees of an access. -/
theorem deviceSees_of_device {cfg : Config} {seg : Byte} {off : Word} (e : Nat → DeviceEvent)
    (h : isDevice cfg seg off = true) : deviceSees cfg seg off e = [e (flatAddr seg off)] := by
  simp [deviceSees, h]

/-- No device sees an access to anything else. -/
theorem deviceSees_of_memory {cfg : Config} {seg : Byte} {off : Word} (e : Nat → DeviceEvent)
    (h : isDevice cfg seg off = false) : deviceSees cfg seg off e = [] := by
  simp [deviceSees, h]

/-- RAM is no device. -/
theorem isDevice_of_ram {cfg : Config} {seg : Byte} {off : Word}
    (h : dataPlace cfg seg off = .ram) : isDevice cfg seg off = false := by
  simp [isDevice, h]

/-- A store of one byte goes on exactly when the byte is writable, and then only data memory, what the
devices have seen and AR change: data memory if the byte is RAM, what the devices have seen if it is
a device's. -/
theorem writeByte_eq_next {s t : State} {seg : Byte} {off : Word} {v : Byte} :
    s.writeByte seg off v = .next t ↔
      Writable s seg off ∧
        t = { s with
          data := if isDevice s.cfg seg off then s.data else s.data.write (flatAddr seg off) v
          deviceLog := s.deviceLog ++ deviceSees s.cfg seg off fun a => .write a v
          ar := off } := by
  unfold State.writeByte Writable deviceSees isDevice
  cases hp : dataPlace s.cfg seg off <;> simp [eq_comm]

theorem writeByte_of_writable {s : State} {seg : Byte} {off : Word} (h : Writable s seg off)
    (v : Byte) : ∃ t, s.writeByte seg off v = .next t := ⟨_, writeByte_eq_next.mpr ⟨h, rfl⟩⟩

theorem writable_congr {s t : State} (hcfg : t.cfg = s.cfg) (seg : Byte) (off : Word) :
    Writable t seg off ↔ Writable s seg off := by
  simp [Writable, hcfg]

/-- RAM reads as what data memory holds. -/
theorem readByte_of_ram {s : State} {seg : Byte} {off : Word}
    (h : dataPlace s.cfg seg off = .ram) :
    s.readByte seg off = .next (s.data.read (flatAddr seg off)) := by
  simp [State.readByte, h]

/-- What is writable and no device's is RAM. -/
theorem ram_of_writable {s : State} {seg : Byte} {off : Word} (h : Writable s seg off)
    (hd : isDevice s.cfg seg off = false) : dataPlace s.cfg seg off = .ram := by
  rcases h with h | h
  · exact h
  · rw [hd] at h; cases h

/-- After a store of one byte every byte reads as before, but the stored one and the devices'. -/
theorem readByte_writeByte_ne {s t : State} {seg : Byte} {off : Word} {v : Byte}
    (h : s.writeByte seg off v = .next t) (g : Byte) (o : Word) (hd : isDevice s.cfg g o = false)
    (hne : ¬(g = seg ∧ o = off)) : t.readByte g o = s.readByte g o := by
  obtain ⟨-, ht⟩ := writeByte_eq_next.mp h
  have hcfg : t.cfg = s.cfg := by rw [ht]
  have hcode : t.code = s.code := by rw [ht]
  by_cases hw : isDevice s.cfg seg off = true
  · exact readByte_congr_memory hcfg hcode (by simp [ht, hw]) hd
  · have hr : t.data.read (flatAddr g o) = s.data.read (flatAddr g o) := by
      simp only [ht, hw, Bool.false_eq_true, if_false]
      exact read_write_ne _ _ (by rwa [Ne, flatAddr_inj])
    unfold isDevice at hd
    unfold State.readByte
    rw [hcfg, hr]
    cases hp : dataPlace s.cfg g o <;> simp_all [State.codeByte]

/-- After a store of one byte the byte reads as stored, if it is no device's. -/
theorem readByte_writeByte_same {s t : State} {seg : Byte} {off : Word} {v : Byte}
    (h : s.writeByte seg off v = .next t) (hd : isDevice s.cfg seg off = false) :
    t.readByte seg off = .next v := by
  obtain ⟨hw, ht⟩ := writeByte_eq_next.mp h
  have hcfg : t.cfg = s.cfg := by rw [ht]
  rw [readByte_of_ram (hcfg ▸ ram_of_writable hw hd)]
  simp [ht, hd]

/-! ## Ranges of memory -/

/-- The distances of a range from the offset below its first byte. -/
theorem readsSeen_succ (cfg : Config) (seg : Byte) (a : Word) (n : Nat) :
    readsSeen cfg seg a (List.range (n + 1)) =
      deviceSees cfg seg a .read ++ readsSeen cfg seg (a + 1#16) (List.range n) := by
  simp [readsSeen, List.range_succ_eq_map, List.flatMap_map, succ_offset]

theorem writesSeen_succ (cfg : Config) (seg : Byte) (a : Word) (v : Nat → Byte) (n : Nat) :
    writesSeen cfg seg a v (List.range (n + 1)) =
      (deviceSees cfg seg a fun x => .write x (v 0)) ++
        writesSeen cfg seg (a + 1#16) (fun k => v (k + 1)) (List.range n) := by
  simp [writesSeen, List.range_succ_eq_map, List.flatMap_map, succ_offset]

/-- Reads at distances moved up by one are reads from the next offset. -/
theorem readsBytes_succ {s : State} {seg : Byte} {a : Word} {b : Nat → Byte} {order : List Nat} :
    ReadsBytes s seg a b (order.map Nat.succ) ↔
      ReadsBytes s seg (a + 1#16) (fun k => b (k + 1)) order := by
  induction order generalizing s with
  | nil => rfl
  | cons k order ih => rw [List.map_cons, ReadsBytes, ReadsBytes, Nat.succ_eq_add_one, ← succ_offset, ih]

/-- A range can be read exactly when its bytes can, one after the other; then only AR and what the
devices have seen change. -/
theorem readBytes_eq_next {s t : State} {seg : Byte} {a : Word} {n : Nat} {bs : List Byte} :
    s.readBytes seg a n = .next (bs, t) ↔
      bs.length = n ∧ ReadsBytes s seg a (fun k => bs.getD k 0x00#8) (List.range n) ∧
        t = { s with
          deviceLog := s.deviceLog ++ readsSeen s.cfg seg a (List.range n)
          ar := if n = 0 then s.ar else a + BitVec.ofNat 16 (n - 1) } := by
  induction n generalizing s a bs with
  | zero =>
    simp only [State.readBytes, Host.Outcome.next.injEq, Prod.mk.injEq, List.length_eq_zero_iff]
    constructor
    · rintro ⟨rfl, rfl⟩
      exact ⟨rfl, trivial, by simp [readsSeen]⟩
    · rintro ⟨rfl, -, rfl⟩
      exact ⟨rfl, by simp [readsSeen]⟩
  | succ n ih =>
    have hstate : ({ s.afterRead seg a with
          deviceLog := (s.afterRead seg a).deviceLog ++
            readsSeen (s.afterRead seg a).cfg seg (a + 1#16) (List.range n)
          ar := if n = 0 then (s.afterRead seg a).ar
            else a + 1#16 + BitVec.ofNat 16 (n - 1) } : State) =
        { s with
          deviceLog := s.deviceLog ++ readsSeen s.cfg seg a (List.range (n + 1))
          ar := if n + 1 = 0 then s.ar else a + BitVec.ofNat 16 (n + 1 - 1) } := by
      rw [readsSeen_succ]
      rcases n with _ | n
      · simp [State.afterRead]
      · simp [State.afterRead, succ_offset]
    have hreads : ∀ (b : Byte) (l : List Byte),
        ReadsBytes s seg a (fun k => (b :: l).getD k 0x00#8) (List.range (n + 1)) ↔
          s.readByte seg a = .next b ∧
            ReadsBytes (s.afterRead seg a) seg (a + 1#16) (fun k => l.getD k 0x00#8)
              (List.range n) := by
      intro b l
      rw [List.range_succ_eq_map, ReadsBytes, readsBytes_succ]
      simp
    simp only [State.readBytes, andThen_eq_next, Host.Outcome.next.injEq, Prod.mk.injEq]
    constructor
    · rintro ⟨b, hb, ⟨l, u⟩, hr, rfl, rfl⟩
      obtain ⟨hl, hrd, rfl⟩ := ih.mp hr
      exact ⟨by simp [hl], (hreads b l).mpr ⟨hb, hrd⟩, hstate⟩
    · rintro ⟨hl, hrd, rfl⟩
      rcases bs with _ | ⟨b, l⟩
      · simp at hl
      · obtain ⟨hb, hrd⟩ := (hreads b l).mp hrd
        exact ⟨b, hb, (l, _), ih.mpr ⟨by simpa using hl, hrd, hstate.symm⟩, rfl, rfl⟩

/-- Reads of RAM find what data memory holds. -/
theorem readsBytes_of_ram {s : State} {seg : Byte} {a : Word} {b : Nat → Byte} {order : List Nat}
    (h : ∀ k ∈ order, dataPlace s.cfg seg (a + BitVec.ofNat 16 k) = .ram ∧
      s.data.read (flatAddr seg (a + BitVec.ofNat 16 k)) = b k) : ReadsBytes s seg a b order := by
  induction order generalizing s with
  | nil => trivial
  | cons k order ih =>
    obtain ⟨h1, h2⟩ := h k (by simp)
    exact ⟨by rw [readByte_of_ram h1, h2], ih fun j hj => h j (by simp [hj])⟩

/-- What the bytes beyond those read would be does not matter. -/
theorem readsBytes_congr {s : State} {seg : Byte} {a : Word} {b c : Nat → Byte} {order : List Nat}
    (h : ∀ k ∈ order, b k = c k) : ReadsBytes s seg a b order ↔ ReadsBytes s seg a c order := by
  induction order generalizing s with
  | nil => rfl
  | cons k order ih =>
    rw [ReadsBytes, ReadsBytes, h k (by simp), ih fun j hj => h j (by simp [hj])]

/-- The bytes of a range, if they can be read. -/
theorem readBytes_of_reads {s : State} {seg : Byte} {a : Word} {n : Nat} {b : Nat → Byte}
    (h : ReadsBytes s seg a b (List.range n)) :
    s.readBytes seg a n = .next ((List.range n).map b, { s with
      deviceLog := s.deviceLog ++ readsSeen s.cfg seg a (List.range n)
      ar := if n = 0 then s.ar else a + BitVec.ofNat 16 (n - 1) }) := by
  refine readBytes_eq_next.mpr ⟨by simp, ?_, rfl⟩
  refine (readsBytes_congr fun k hk => ?_).mpr h
  have : k < n := List.mem_range.mp hk
  simp [List.getD, this]

/-- What a store of a list of bytes does, if it goes on: only data memory, what the devices have seen
and AR change; the bytes are written in ascending order. -/
theorem writeBytes_spec {s t : State} {seg : Byte} {a : Word} {bs : List Byte}
    (hlen : bs.length ≤ 65536) (h : s.writeBytes seg a bs = .next t) :
    t = { s with data := t.data, deviceLog := t.deviceLog, ar := t.ar } ∧
      WritableRange s seg a bs.length ∧
      WritesBytes s t seg a (fun k => bs.getD k 0x00#8) (List.range bs.length) := by
  induction bs generalizing s a with
  | nil =>
    simp only [State.writeBytes, Host.Outcome.next.injEq] at h
    subst h
    exact ⟨rfl, fun i hi => absurd hi (by simp), by simp [WritesBytes, writesSeen]⟩
  | cons b bs ih =>
    simp only [State.writeBytes, andThen_eq_next] at h
    obtain ⟨u, hb, h⟩ := h
    obtain ⟨hw, hu⟩ := writeByte_eq_next.mp hb
    simp only [List.length_cons] at hlen
    obtain ⟨he, hwr, hrd, hlog, hfr⟩ := ih (by omega) h
    have hcfg : u.cfg = s.cfg := by rw [hu]
    rw [hcfg] at hrd hlog hfr
    have hfar : ∀ j < bs.length, a ≠ a + 1#16 + BitVec.ofNat 16 j := by
      intro j hj e
      rw [succ_offset] at e
      have := offset_inj a (i := 0) (j := j + 1) (by omega) (by omega) (by simpa using e)
      omega
    refine ⟨by rw [he, hu], ?_, ?_, ?_, ?_⟩
    · intro i hi
      cases i with
      | zero => simpa using hw
      | succ i =>
        have := hwr i (by simpa using hi)
        rw [succ_offset, writable_congr hcfg] at this
        exact this
    · intro k hk hd
      cases k with
      | zero =>
        simp only [BitVec.add_zero] at hd ⊢
        rw [hfr seg a hd fun j hj => by simpa using hfar j (List.mem_range.mp hj)]
        simpa using readByte_writeByte_same hb hd
      | succ k =>
        rw [← succ_offset] at hd ⊢
        simpa using hrd k (by simpa using hk) hd
    · rw [hlog, List.length_cons, writesSeen_succ, hu]
      simp
    · intro g o hd hne
      rw [hfr g o hd, readByte_writeByte_ne hb g o hd]
      · simpa using hne 0 (by simp)
      · intro j hj
        rw [succ_offset]
        exact hne (j + 1) (by simpa using hj)

/-- A store goes on if every byte of its range is writable. -/
theorem writeBytes_of_writable {s : State} {seg : Byte} {a : Word} {bs : List Byte}
    (h : WritableRange s seg a bs.length) : ∃ t, s.writeBytes seg a bs = .next t := by
  induction bs generalizing s a with
  | nil => exact ⟨s, rfl⟩
  | cons b bs ih =>
    obtain ⟨u, hu⟩ := writeByte_of_writable (v := b) (by simpa using h 0 (by simp))
    simp only [State.writeBytes, hu, andThen_next]
    apply ih
    intro i hi
    have hcfg : u.cfg = s.cfg := by rw [(writeByte_eq_next.mp hu).2]
    rw [succ_offset, writable_congr hcfg]
    exact h (i + 1) (by simpa using hi)

/-- A store keeps memory canonical and inside the address space. -/
theorem writeByte_memory {s t : State} {seg : Byte} {off : Word} {v : Byte}
    (h : s.writeByte seg off v = .next t) (hwf : s.data.wf = true)
    (hb : s.data.below 16777216 = true) : t.data.wf = true ∧ t.data.below 16777216 = true := by
  obtain ⟨-, rfl⟩ := writeByte_eq_next.mp h
  dsimp only
  split
  · exact ⟨hwf, hb⟩
  · exact ⟨write_wf _ _ _ hwf, write_below _ _ _ _ hb (flatAddr_lt _ _)⟩

theorem writeBytes_memory {s t : State} {seg : Byte} {a : Word} {bs : List Byte}
    (h : s.writeBytes seg a bs = .next t) (hwf : s.data.wf = true)
    (hb : s.data.below 16777216 = true) : t.data.wf = true ∧ t.data.below 16777216 = true := by
  induction bs generalizing s a with
  | nil =>
    simp only [State.writeBytes, Host.Outcome.next.injEq] at h
    subst h
    exact ⟨hwf, hb⟩
  | cons b bs ih =>
    simp only [State.writeBytes, andThen_eq_next] at h
    obtain ⟨u, hu, h⟩ := h
    obtain ⟨hw, hb'⟩ := writeByte_memory hu hwf hb
    exact ih h hw hb'

/-! ## Where accesses stop -/

/-- The read of a byte stops as the map says, or finds a byte. -/
theorem readByte_stop (s : State) (seg : Byte) (off : Word) :
    match readStop s seg off with
    | some e => ∀ f : Byte → Res State, andThen (s.readByte seg off) f = e
    | none => ∃ b, s.readByte seg off = .next b := by
  have hz : flatAddr 0x0#4 off = off.toNat := by simp [flatAddr]
  have ha : seg.toNat * 65536 + off.toNat = flatAddr seg off := rfl
  by_cases hw : InWindow s seg off
  · have hp : dataPlace s.cfg seg off = .window := by
      simp [dataPlace, inRomWindow, hw.1, hw.2.1, hw.2.2]
    simp only [readStop]
    rw [if_pos hw, State.readByte, hp]
    simp only [State.codeByte, hz]
    cases codePresent s.cfg off.toNat <;> simp
  · have hi : inRomWindow s.cfg seg off = false := by
      simpa [inRomWindow, InWindow, and_assoc] using hw
    simp only [readStop]
    rw [if_neg hw]
    simp only [ha, State.readByte, dataPlace, hi, Bool.false_eq_true]
    rcases dataKind s.cfg (flatAddr seg off) with _ | k
    · simp
    · cases k <;> simp

/-- The write of a byte stops as the map says, or goes on. -/
theorem writeByte_stop (s : State) (seg : Byte) (off : Word) (v : Byte) :
    match writeStop s seg off with
    | some e => s.writeByte seg off v = e
    | none => ∃ t, s.writeByte seg off v = .next t := by
  have ha : seg.toNat * 65536 + off.toNat = flatAddr seg off := rfl
  by_cases hw : InWindow s seg off
  · have hp : dataPlace s.cfg seg off = .window := by
      simp [dataPlace, inRomWindow, hw.1, hw.2.1, hw.2.2]
    simp only [writeStop]
    rw [if_pos hw, State.writeByte, hp]
    rfl
  · have hi : inRomWindow s.cfg seg off = false := by
      simpa [inRomWindow, InWindow, and_assoc] using hw
    simp only [writeStop]
    rw [if_neg hw]
    simp only [ha, State.writeByte, dataPlace, hi, Bool.false_eq_true]
    rcases dataKind s.cfg (flatAddr seg off) with _ | k
    · simp
    · cases k <;> simp

/-- Where accesses stop depends on the parameters alone. -/
theorem readStop_congr {s t : State} (h : t.cfg = s.cfg) : readStop t = readStop s := by
  funext seg off
  simp [readStop, InWindow, h]

theorem writeStop_congr {s t : State} (h : t.cfg = s.cfg) : writeStop t = writeStop s := by
  funext seg off
  simp [writeStop, InWindow, h]

theorem firstStop_succ (stop : Word → Option (Res State)) (a : Word) (n : Nat) :
    firstStop stop a (List.range (n + 1)) =
      (stop a).or (firstStop stop (a + 1#16) (List.range n)) := by
  rw [firstStop, List.range_succ_eq_map, List.findSome?_cons, List.findSome?_map]
  simp only [BitVec.add_zero, firstStop, succ_offset]
  cases stop a <;> rfl

/-- The read of a range stops at its first byte that stops, or goes on. -/
theorem readBytes_stop (s : State) (seg : Byte) (a : Word) (n : Nat) :
    match firstStop (readStop s seg) a (List.range n) with
    | some e => ∀ f : List Byte × State → Res State, andThen (s.readBytes seg a n) f = e
    | none => ∃ r, s.readBytes seg a n = .next r := by
  induction n generalizing s a with
  | zero => exact ⟨_, rfl⟩
  | succ n ih =>
    have hb := readByte_stop s seg a
    have ih := ih (s.afterRead seg a) (a + 1#16)
    rw [readStop_congr (s := s) (t := s.afterRead seg a) rfl] at ih
    rw [firstStop_succ]
    cases h1 : readStop s seg a with
    | some e =>
      rw [h1] at hb
      intro f
      rw [State.readBytes, andThen_assoc]
      exact hb _
    | none =>
      rw [h1] at hb
      obtain ⟨b, hb⟩ := hb
      rw [Option.none_or]
      cases h2 : firstStop (readStop s seg) (a + 1#16) (List.range n) with
      | some e =>
        rw [h2] at ih
        intro f
        rw [State.readBytes, hb, andThen_next, andThen_assoc]
        exact ih _
      | none =>
        rw [h2] at ih
        obtain ⟨r, hr⟩ := ih
        exact ⟨(b :: r.1, r.2), by rw [State.readBytes, hb, andThen_next, hr, andThen_next]⟩

/-- The write of a range stops at its first byte that stops, or goes on. -/
theorem writeBytes_stop (s : State) (seg : Byte) (a : Word) (bs : List Byte) :
    match firstStop (writeStop s seg) a (List.range bs.length) with
    | some e => s.writeBytes seg a bs = e
    | none => ∃ t, s.writeBytes seg a bs = .next t := by
  induction bs generalizing s a with
  | nil => exact ⟨_, rfl⟩
  | cons b bs ih =>
    have hb := writeByte_stop s seg a b
    rw [List.length_cons, firstStop_succ]
    cases h1 : writeStop s seg a with
    | some e =>
      rw [h1] at hb
      have hb : s.writeByte seg a b = e := hb
      have hne : ∀ t, e ≠ .next t := by
        rintro t rfl
        simp only [writeStop] at h1
        split_ifs at h1 <;> simp at h1
      show andThen (s.writeByte seg a b) _ = e
      rw [hb]
      cases e with
      | next t => exact absurd rfl (hne t)
      | fault x => rfl
      | refused x => rfl
    | none =>
      rw [h1] at hb
      obtain ⟨u, hu⟩ := hb
      have ih := ih u (a + 1#16)
      rw [writeStop_congr (s := s) (t := u) (by rw [(writeByte_eq_next.mp hu).2])] at ih
      rw [Option.none_or, State.writeBytes, hu, andThen_next]
      exact ih

/-- What was written shows in any state with the same memories and the same devices. -/
theorem writesBytes_congr {s u t : State} {seg : Byte} {a : Word} {v : Nat → Byte}
    {order : List Nat} (hcfg : t.cfg = u.cfg) (hcode : t.code = u.code) (hdata : t.data = u.data)
    (hlog : t.deviceLog = u.deviceLog) (h : WritesBytes s u seg a v order) :
    WritesBytes s t seg a v order := by
  have hr := readByte_congr hcfg hcode hdata hlog
  exact ⟨fun k hk hd => by rw [hr, h.1 k hk hd], by rw [hlog, h.2.1],
    fun g o hd hne => by rw [hr, h.2.2 g o hd hne]⟩

/-! ## Taking an exception, returning, resetting -/

/-- What taking an exception does, if it goes on (spec/60_exceptions.md R376). -/
theorem enterException_spec {s t : State} {k : Bank} {ret vector : Word} {clearMie : Bool}
    (h : enterException s k ret vector clearMie = .next t) :
    ∃ target, s.codeRead16 0x0#4 vector = .next target ∧
      t = { ((s.setElr k ret).setEcsr k s.codeSeg).setEpsw k s.psw with
            csr := s.segWrite s.csr 0x0#4, pc := evenAddr target, psw := t.psw, intBlock := true } ∧
      elevel t.psw = k.level ∧
      (∀ f, f ≠ .mie → getFlag t.psw f = getFlag s.psw f) ∧
      getFlag t.psw .mie = (!clearMie && getFlag s.psw .mie) := by
  simp only [enterException, andThen_eq_next, Host.Outcome.next.injEq] at h
  obtain ⟨target, hr, e⟩ := h
  have hp : t.psw = if clearMie then setFlag (setElevel s.psw k.level) .mie false
      else setElevel s.psw k.level := by rw [← e]
  refine ⟨target, hr, ?_, ?_, ?_, ?_⟩
  · rw [← e]
    cases k <;> rfl
  · rw [hp]
    split <;> simp [elevel_setFlag, elevel_setElevel]
  · intro f hf
    rw [hp]
    split <;> simp [getFlag_setFlag, getFlag_setElevel, hf]
  · rw [hp]
    cases clearMie <;> simp [getFlag_setFlag, getFlag_setElevel]

/-- Which set ELEVEL selects. -/
theorem selectBank_eq_next {s : State} {why : Refusal} {k : Bank} :
    selectBank s why = .next k ↔ s.bank = some k ∧ s.hasBank k = true := by
  unfold selectBank
  cases s.bank with
  | none => simp
  | some j =>
    by_cases hb : s.hasBank j = true
    · simp only [hb, if_true, Host.Outcome.next.injEq, Option.some.injEq]
      constructor
      · rintro rfl; exact ⟨rfl, hb⟩
      · exact fun h => h.1
    · simp only [hb, Bool.false_eq_true, if_false, reduceCtorEq, Option.some.injEq, false_iff]
      rintro ⟨rfl, h⟩
      exact hb h

/-- What RTI does, if it goes on (spec/48_muldiv_misc.md R355). -/
theorem returnFromException_spec {s t : State} (h : returnFromException s = .next t) :
    ∃ k, s.bank = some k ∧ s.hasBank k = true ∧
      t = { s with csr := s.segWrite s.csr (s.ecsr k), psw := s.epsw k, pc := evenAddr (s.elr k),
                   dsrPrefix := false, intBlock := false } := by
  simp only [returnFromException, andThen_eq_next, selectBank_eq_next,
    Host.Outcome.next.injEq] at h
  obtain ⟨k, ⟨hb, hh⟩, e⟩ := h
  exact ⟨k, hb, hh, e.symm⟩

/-- When PUSH and POP are defined. -/
theorem stackReady_eq_next {s t : State} :
    stackReady s = .next t ↔ s.dsrPrefix = false ∧ s.sp.getLsbD 0 = false ∧ t = s := by
  unfold stackReady
  cases s.dsrPrefix <;> cases s.sp.getLsbD 0 <;> simp [eq_comm]

/-- What a DSR-prefixable load does, if it goes on (spec/42_load_store.md R174). -/
theorem loadRegs_spec {s t : State} {n : RegNo} {size : Nat} {off ea' : Word} {words : Nat}
    (h : loadRegs s n size off ea' words = .next t) :
    ∃ bs : List Byte, bs.length = size ∧
      ReadsBytes s s.dseg (accessBase off size) (fun k => bs.getD k 0x00#8) (List.range size) ∧
      t = { s with regs := (s.setRBytes n bs).regs, psw := pswLoad s.psw (8 * size) (leNat bs),
                   ea := ea', ar := t.ar, pc := s.nextPc words, dsrPrefix := false,
                   intBlock := false
                   deviceLog := s.deviceLog ++
                     readsSeen s.cfg s.dseg (accessBase off size) (List.range size) } := by
  simp only [loadRegs, State.memRead, andThen_eq_next, Host.Outcome.next.injEq] at h
  obtain ⟨⟨bs, u⟩, hr, e⟩ := h
  obtain ⟨hl, hrd, hu⟩ := readBytes_eq_next.mp hr
  refine ⟨bs, hl, hrd, ?_⟩
  have hregs := setRBytes_regs_congr (s := s) (t := u) (by rw [hu]) n bs
  rw [← e, setRBytes_eq u, hregs, hu]
  rfl

/-- What a store does, if it goes on (spec/42_load_store.md R174). -/
theorem storeBytes_spec {s t : State} {bs : List Byte} {off ea' : Word} {words : Nat}
    (hlen : bs.length ≤ 65536) (h : storeBytes s bs off ea' words = .next t) :
    t = { s with data := t.data, deviceLog := t.deviceLog, ar := t.ar, ea := ea',
                 pc := s.nextPc words, dsrPrefix := false, intBlock := false } ∧
      WritableRange s s.dseg (accessBase off bs.length) bs.length ∧
      WritesBytes s t s.dseg (accessBase off bs.length) (fun k => bs.getD k 0x00#8)
        (List.range bs.length) := by
  simp only [storeBytes, State.memWrite, andThen_eq_next, Host.Outcome.next.injEq] at h
  obtain ⟨u, hu, e⟩ := h
  obtain ⟨h1, h2, h3⟩ := writeBytes_spec hlen hu
  refine ⟨?_, h2, writesBytes_congr ?_ ?_ ?_ ?_ h3⟩ <;> rw [← e]
  · rw [h1]; rfl
  all_goals rfl

end Sys2Proof.Machine
end

