-- ==== Sys2Proof/Laws/Alu.lean ====
section
/-! SUPPORT. The ends of register instructions, and what the arithmetic flag functions compute, said
once in terms of natural numbers and integers. -/

namespace Sys2Proof.Machine

/-! ## The ends of register instructions -/

/-- What an instruction that ends by writing one byte register does. -/
theorem finishR_spec (s : State) (n : RegNo) (v p : Byte) :
    ∃ t, finishR s n v p = .next t ∧ FrameRegs s t 1 ∧ KeepsRegsBut s t n 1 ∧ t.r n = v ∧
      t.psw = p := by
  refine ⟨_, rfl, ⟨rfl, sameData_of_eq rfl rfl rfl rfl⟩, ?_, r_setR_same s n v, rfl⟩
  intro q hq
  have := hq 0 (by omega)
  rw [BitVec.add_zero] at this
  exact r_setR_ne s v this

/-- What an instruction that ends by writing one word register does. -/
theorem finishEr_spec (s : State) (n : RegNo) (v : Word) (p : Byte) :
    ∃ t, finishEr s n v p = .next t ∧ FrameRegs s t 1 ∧ KeepsRegsBut s t n 2 ∧ t.er n = v ∧
      t.psw = p := by
  refine ⟨_, rfl, ⟨rfl, sameData_of_eq rfl rfl rfl rfl⟩, ?_, er_setEr_same s n v, rfl⟩
  intro q hq
  have h0 := hq 0 (by omega)
  have h1 : q ≠ n + 1 := hq 1 (by omega)
  rw [BitVec.add_zero] at h0
  show (s.setEr n v).r q = s.r q
  rw [r_setEr, if_neg h1, if_neg h0]

/-- What an instruction that ends by writing only the PSW does. -/
theorem finishPsw_spec (s : State) (p : Byte) :
    ∃ t, finishPsw s p = .next t ∧ FrameRegs s t 1 ∧ t.regs = s.regs ∧ t.psw = p :=
  ⟨_, rfl, ⟨rfl, sameData_of_eq rfl rfl rfl rfl⟩, rfl, rfl⟩

/-- Registers that are all as before are as before outside any range. -/
theorem keepsRegsBut_of_eq {s t : State} (h : t.regs = s.regs) (n : RegNo) (k : Nat) :
    KeepsRegsBut s t n k := fun q _ => r_congr h q

/-! ## The flag functions (spec/40_arithmetic.md R121) -/

/-- A word register as its two bytes. -/
theorem er_toNat (s : State) (n : RegNo) :
    (s.er n).toNat = (s.r n).toNat + 256 * (s.r (n + 1)).toNat := by
  have h : (s.er n).toNat = (s.r (n + 1)).toNat <<< 8 ||| (s.r n).toNat :=
    BitVec.toNat_append (s.r (n + 1)) (s.r n)
  rw [h, ← Nat.shiftLeft_add_eq_or_of_lt (s.r n).isLt, Nat.shiftLeft_eq]
  omega

/-- ADDF for bytes. -/
theorem addF_byte (a b : Byte) (cin : Bool) :
    let sum := a.toNat + b.toNat + cin.toNat
    let signed : Int := a.toInt + b.toInt + cin.toNat
    (addF a b cin).value.toNat = sum % 256 ∧ (addF a b cin).c = decide (256 ≤ sum) ∧
      (addF a b cin).z = decide (sum % 256 = 0) ∧ (addF a b cin).s = decide (128 ≤ sum % 256) ∧
      (addF a b cin).ov = decide (signed < -128 ∨ 127 < signed) ∧
      (addF a b cin).hc = decide (16 ≤ a.toNat % 16 + b.toNat % 16 + cin.toNat) := by
  refine ⟨by simp [addF], by simp [addF], ?_, by simp [addF, BitVec.msb_eq_decide], ?_, rfl⟩
  · simp only [addF]
    rw [Bool.eq_iff_iff]
    simp [← BitVec.toNat_inj]
  · simp only [addF, outsideSigned]
    rw [Bool.eq_iff_iff]
    simp
    omega

/-- ADDF for words. -/
theorem addF_word (a b : Word) (cin : Bool) :
    let sum := a.toNat + b.toNat + cin.toNat
    let signed : Int := a.toInt + b.toInt + cin.toNat
    (addF a b cin).value.toNat = sum % 65536 ∧ (addF a b cin).c = decide (65536 ≤ sum) ∧
      (addF a b cin).z = decide (sum % 65536 = 0) ∧
      (addF a b cin).s = decide (32768 ≤ sum % 65536) ∧
      (addF a b cin).ov = decide (signed < -32768 ∨ 32767 < signed) ∧
      (addF a b cin).hc = decide (4096 ≤ a.toNat % 4096 + b.toNat % 4096 + cin.toNat) := by
  refine ⟨by simp [addF], by simp [addF], ?_, by simp [addF, BitVec.msb_eq_decide], ?_, rfl⟩
  · simp only [addF]
    rw [Bool.eq_iff_iff]
    simp [← BitVec.toNat_inj]
  · simp only [addF, outsideSigned]
    rw [Bool.eq_iff_iff]
    simp
    omega

/-- SUBF for bytes. -/
theorem subF_byte (a b : Byte) (bin : Bool) :
    let d : Int := (a.toNat : Int) - b.toNat - bin.toNat
    let signed : Int := a.toInt - b.toInt - bin.toNat
    ((subF a b bin).value.toNat : Int) = d % 256 ∧ (subF a b bin).c = decide (d < 0) ∧
      (subF a b bin).z = decide (d % 256 = 0) ∧ (subF a b bin).s = decide (128 ≤ d % 256) ∧
      (subF a b bin).ov = decide (signed < -128 ∨ 127 < signed) ∧
      (subF a b bin).hc = decide (a.toNat % 16 < b.toNat % 16 + bin.toNat) := by
  have hv : ((subF a b bin).value.toNat : Int) =
      ((a.toNat : Int) - b.toNat - bin.toNat) % 256 := by
    have ha := a.isLt
    have hb := b.isLt
    cases bin <;> simp [subF, BitVec.toNat_sub] <;> omega
  refine ⟨hv, ?_, ?_, ?_, ?_, rfl⟩
  · simp only [subF]
    rw [Bool.eq_iff_iff]
    simp
    omega
  · show ((subF a b bin).value == 0) = _
    rw [Bool.eq_iff_iff]
    simp only [beq_iff_eq, decide_eq_true_eq, ← BitVec.toNat_inj, BitVec.ofNat_eq_ofNat,
      BitVec.toNat_ofNat, Nat.zero_mod]
    omega
  · show (subF a b bin).value.msb = _
    rw [BitVec.msb_eq_decide, Bool.eq_iff_iff]
    simp only [decide_eq_true_eq]
    omega
  · simp only [subF, outsideSigned]
    rw [Bool.eq_iff_iff]
    simp
    omega

/-- SUBF for words. -/
theorem subF_word (a b : Word) (bin : Bool) :
    let d : Int := (a.toNat : Int) - b.toNat - bin.toNat
    let signed : Int := a.toInt - b.toInt - bin.toNat
    ((subF a b bin).value.toNat : Int) = d % 65536 ∧ (subF a b bin).c = decide (d < 0) ∧
      (subF a b bin).z = decide (d % 65536 = 0) ∧
      (subF a b bin).s = decide (32768 ≤ d % 65536) ∧
      (subF a b bin).ov = decide (signed < -32768 ∨ 32767 < signed) ∧
      (subF a b bin).hc = decide (a.toNat % 4096 < b.toNat % 4096 + bin.toNat) := by
  have hv : ((subF a b bin).value.toNat : Int) =
      ((a.toNat : Int) - b.toNat - bin.toNat) % 65536 := by
    have ha := a.isLt
    have hb := b.isLt
    cases bin <;> simp [subF, BitVec.toNat_sub] <;> omega
  refine ⟨hv, ?_, ?_, ?_, ?_, rfl⟩
  · simp only [subF]
    rw [Bool.eq_iff_iff]
    simp
    omega
  · show ((subF a b bin).value == 0) = _
    rw [Bool.eq_iff_iff]
    simp only [beq_iff_eq, decide_eq_true_eq, ← BitVec.toNat_inj, BitVec.ofNat_eq_ofNat,
      BitVec.toNat_ofNat, Nat.zero_mod]
    omega
  · show (subF a b bin).value.msb = _
    rw [BitVec.msb_eq_decide, Bool.eq_iff_iff]
    simp only [decide_eq_true_eq]
    omega
  · simp only [subF, outsideSigned]
    rw [Bool.eq_iff_iff]
    simp
    omega

end Sys2Proof.Machine
end

