-- ==== Sys2Proof/Laws/Stack.lean ====
section
/-! SUPPORT. What the operations of the stack, the coprocessor loads, the read-modify-write operation, the
shifts and the reset sequence can do, said once for each. -/

namespace Sys2Proof.Machine

/-! ## Offsets -/

theorem evenAddr_of_even {a : Word} (h : a.getLsbD 0 = false) : evenAddr a = a := by
  apply BitVec.eq_of_getLsbD_eq
  intro i hi
  simp only [evenAddr, BitVec.getLsbD_and]
  by_cases h0 : i = 0
  · subst h0
    rw [h]
    rfl
  · have : (0xFFFE#16).getLsbD i = true := by
      interval_cases i <;> first | omega | rfl
    simp [this]

theorem even_iff (a : Word) : a.getLsbD 0 = false ↔ a.toNat % 2 = 0 := by
  rw [BitVec.getLsbD, Nat.testBit_zero]
  simp

/-- An even SP stays even when an even number of bytes is pushed. -/
theorem even_sub {a : Word} {n : Nat} (h : a.getLsbD 0 = false) (hn : n % 2 = 0) :
    (a - BitVec.ofNat 16 n).getLsbD 0 = false := by
  rw [even_iff] at *
  have := a.isLt
  simp only [BitVec.toNat_sub, BitVec.toNat_ofNat]
  omega

theorem accessBase_of_even {a : Word} (h : a.getLsbD 0 = false) (n : Nat) : accessBase a n = a := by
  unfold accessBase
  split
  · rfl
  · exact evenAddr_of_even h

/-! ## Pushing -/

/-- What a push of bytes does, if it goes on (spec/44_push_pop.md R243 to R245). -/
theorem pushBytes_spec {s t : State} {bs : List Byte} (hsp : s.sp.getLsbD 0 = false)
    (hlen : bs.length ≤ 65536) (heven : bs.length % 2 = 0) (h : pushBytes s bs = .next t) :
    t = { s with data := t.data, deviceLog := t.deviceLog, ar := t.ar,
                 sp := s.sp - BitVec.ofNat 16 bs.length } ∧
      t.sp.getLsbD 0 = false ∧ WritableRange s 0x00#8 t.sp bs.length ∧
      WritesBytes s t 0x00#8 t.sp (fun k => bs.getD k 0x00#8) (List.range bs.length) := by
  simp only [pushBytes, State.memWrite, andThen_eq_next, Host.Outcome.next.injEq] at h
  obtain ⟨u, hu, e⟩ := h
  have hev := even_sub (n := bs.length) hsp heven
  rw [accessBase_of_even hev] at hu
  obtain ⟨h1, h2, h3⟩ := writeBytes_spec hlen hu
  have hs : t.sp = s.sp - BitVec.ofNat 16 bs.length := by rw [← e]
  refine ⟨by rw [← e, h1], hs ▸ hev, hs ▸ h2, ?_⟩
  rw [hs]
  exact writesBytes_congr (by rw [← e]) (by rw [← e]) (by rw [← e]) (by rw [← e]) h3

/-- A push of bytes goes on if its range is writable. -/
theorem pushBytes_of_writable {s : State} {bs : List Byte} (hsp : s.sp.getLsbD 0 = false)
    (heven : bs.length % 2 = 0)
    (h : WritableRange s 0x00#8 (s.sp - BitVec.ofNat 16 bs.length) bs.length) :
    ∃ t, pushBytes s bs = .next t := by
  obtain ⟨u, hu⟩ := writeBytes_of_writable h
  refine ⟨{ u with sp := s.sp - BitVec.ofNat 16 bs.length }, ?_⟩
  simp only [pushBytes, State.memWrite, accessBase_of_even (even_sub hsp heven), hu, andThen_next]

/-- Two writes, one after the other, to two offsets: an instruction's writes so far with one more. -/
theorem writesBytes_append {s u t : State} {seg : Byte} {a : Word} {v : Nat → Byte}
    {order : List Nat} {k : Nat} (hcfg : u.cfg = s.cfg)
    (hfar : ∀ j ∈ order, a + BitVec.ofNat 16 j ≠ a + BitVec.ofNat 16 k)
    (h : WritesBytes s u seg a v order)
    (hw : u.writeByte seg (a + BitVec.ofNat 16 k) (v k) = .next t) :
    WritesBytes s t seg a v (order ++ [k]) := by
  obtain ⟨h1, h2, h3⟩ := h
  obtain ⟨-, ht⟩ := writeByte_eq_next.mp hw
  refine ⟨?_, ?_, ?_⟩
  · intro j hj hd
    rcases List.mem_append.mp hj with hj | hj
    · rw [readByte_writeByte_ne hw _ _ (hcfg ▸ hd) fun h => hfar j hj h.2, h1 j hj hd]
    · obtain rfl := List.mem_singleton.mp hj
      exact readByte_writeByte_same hw (hcfg ▸ hd)
  · rw [ht]
    simp [h2, writesSeen, hcfg]
  · intro g o hd hne
    rw [readByte_writeByte_ne hw _ _ (hcfg ▸ hd) (hne k (by simp)),
      h3 g o hd fun j hj => hne j (by simp [hj])]

/-- Nothing written. -/
theorem writesBytes_nil (s : State) (seg : Byte) (a : Word) (v : Nat → Byte) :
    WritesBytes s s seg a v [] := ⟨by simp, by simp [writesSeen], fun _ _ _ _ => rfl⟩

/-- What a push of one byte does, if it goes on: the dummy byte above it, written first, is a free
value (spec/44_push_pop.md R242). -/
theorem pushByte_spec {s t : State} {v : Byte} (h : pushByte s v = .next t) :
    t = { s with data := t.data, deviceLog := t.deviceLog, ar := t.ar, sp := s.sp - 2#16,
                 draws := s.draws + 1 } ∧
      WritesBytes s t 0x00#8 (s.sp - 2#16) (fun k => if k = 0 then v else Config.freeByte s.draws)
        [1, 0] := by
  simp only [pushByte, andThen_eq_next, Host.Outcome.next.injEq] at h
  obtain ⟨u, hu, w, hw, rfl⟩ := h
  have eu := (writeByte_eq_next.mp hu).2
  have ew := (writeByte_eq_next.mp hw).2
  refine ⟨by rw [ew, eu], ?_⟩
  have h1 := writesBytes_append (k := 1) (v := fun k => if k = 0 then v else Config.freeByte s.draws)
    rfl (by simp) (writesBytes_nil s 0x00#8 (s.sp - 2#16) _) hu
  have h2 := writesBytes_append (k := 0) (by rw [eu]) (by simp) h1 (by simpa using hw)
  exact writesBytes_congr rfl rfl rfl rfl h2

/-- A push of one byte goes on if its two bytes are writable. -/
theorem pushByte_of_writable {s : State} (v : Byte)
    (h : WritableRange s 0x00#8 (s.sp - 2#16) 2) : ∃ t, pushByte s v = .next t := by
  obtain ⟨u, hu⟩ := writeByte_of_writable (v := Config.freeByte s.draws) (h 1 (by omega))
  have hcfg : u.cfg = s.cfg := by rw [(writeByte_eq_next.mp hu).2]
  obtain ⟨w, hw⟩ := writeByte_of_writable (v := v)
    ((writable_congr hcfg _ _).mpr (by simpa using h 0 (by omega)))
  exact ⟨_, by simp only [pushByte]; rw [show s.sp - 2#16 + 1#16 =
    s.sp - 2#16 + BitVec.ofNat 16 1 from rfl, hu, andThen_next, hw, andThen_next]⟩

/-- A push of a code address in the SMALL model is a push of its two bytes. -/
theorem pushCodeAddr_small {s : State} (h : s.cfg.model = .small) (off : Word) (seg : Nibble) :
    pushCodeAddr s off seg = pushBytes s [loByte off, hiByte off] := by
  simp [pushCodeAddr, State.isLarge, h]

/-- What a push of a code address does in the LARGE model, if it goes on: the dummy byte first, then the
segment byte, then the offset (spec/44_push_pop.md R248). -/
theorem pushCodeAddr_large {s t : State} (hm : s.cfg.model = .large) (hsp : s.sp.getLsbD 0 = false)
    {off : Word} {seg : Nibble} (h : pushCodeAddr s off seg = .next t) :
    t = { s with data := t.data, deviceLog := t.deviceLog, ar := t.ar, sp := s.sp - 4#16,
                 draws := s.draws + 1 } ∧
      WritesBytes s t 0x00#8 (s.sp - 4#16)
        (fun k => if k = 0 then loByte off else if k = 1 then hiByte off
          else if k = 2 then Config.freeNibble s.draws ++ seg else Config.freeByte s.draws)
        [3, 2, 0, 1] := by
  have hev : (s.sp - 4#16).getLsbD 0 = false := even_sub (n := 4) hsp rfl
  simp only [pushCodeAddr, State.isLarge, hm, beq_self_eq_true, if_true, State.memWrite,
    accessBase_of_even hev, State.writeBytes, andThen_eq_next, Host.Outcome.next.injEq] at h
  obtain ⟨u, hu, w, hw, x, ⟨y, hy, z, hz, rfl⟩, rfl⟩ := h
  have eu := (writeByte_eq_next.mp hu).2
  have ew := (writeByte_eq_next.mp hw).2
  have ey := (writeByte_eq_next.mp hy).2
  have ez := (writeByte_eq_next.mp hz).2
  have cu : u.cfg = s.cfg := by rw [eu]
  have cw : w.cfg = s.cfg := by rw [ew, cu]
  have cy : y.cfg = s.cfg := by rw [ey, cw]
  refine ⟨by rw [ez, ey, ew, eu], ?_⟩
  have h1 := writesBytes_append (k := 3)
    (v := fun k => if k = 0 then loByte off else if k = 1 then hiByte off
      else if k = 2 then Config.freeNibble s.draws ++ seg else Config.freeByte s.draws)
    rfl (by simp) (writesBytes_nil s 0x00#8 (s.sp - 4#16) _) hu
  have h2 := writesBytes_append (k := 2) cu (by simp) h1 hw
  have h3 := writesBytes_append (k := 0) cw (by simp) h2 (by simpa using hy)
  have h4 := writesBytes_append (k := 1) cy (by simp) h3 hz
  exact writesBytes_congr rfl rfl rfl rfl h4

/-- An item that is listed is done, one that is not leaves the state. -/
@[simp] theorem whenListed_true (op : State → Res State) (s : State) :
    whenListed true op s = op s := rfl

@[simp] theorem whenListed_false (op : State → Res State) (s : State) :
    whenListed false op s = .next s := rfl

/-! ## Popping -/

/-- Two bytes as a word, the low byte first. -/
theorem leWord_two (lo hi : Byte) : leWord [lo, hi] = hi ++ lo := by
  apply BitVec.eq_of_toNat_eq
  rw [BitVec.toNat_append, ← Nat.shiftLeft_add_eq_or_of_lt lo.isLt]
  simp only [leWord, leNat, BitVec.toNat_ofNat, Nat.shiftLeft_eq]
  have := lo.isLt
  have := hi.isLt
  omega

/-- What a pop of a code address does, if it goes on: its frame is read at SP, and `use` gets the state
after it with SP moved (spec/44_push_pop.md R251). -/
theorem popCodeAddr_spec {s t : State} {use : State → Word → Nibble → State}
    (hsp : s.sp.getLsbD 0 = false) (h : popCodeAddr s use = .next t) :
    ∃ (b : Nat → Byte) (u : State), ReadsBytes s 0x00#8 s.sp b (linkPopOrder s) ∧
      u = { s with ar := u.ar, sp := s.sp + BitVec.ofNat 16 (linkSize s)
                   deviceLog := s.deviceLog ++ readsSeen s.cfg 0x00#8 s.sp (linkPopOrder s) } ∧
      t = use u (b 1 ++ b 0) (if s.cfg.model = .large then loNibble (b 2) else 0x0#4) := by
  simp only [popCodeAddr, State.memRead, accessBase_of_even hsp, andThen_eq_next] at h
  obtain ⟨⟨bs, u⟩, hr, h⟩ := h
  obtain ⟨hl, hrd, hu⟩ := readBytes_eq_next.mp hr
  obtain ⟨b0, b1, rfl⟩ := List.length_eq_two.mp hl
  obtain ⟨r0, r1, -⟩ : ReadsBytes s 0x00#8 s.sp (fun k => [b0, b1].getD k 0x00#8) [0, 1] := hrd
  cases hm : s.cfg.model with
  | small =>
    simp only [State.isLarge, hm, reduceCtorEq, beq_iff_eq, if_false,
      Host.Outcome.next.injEq] at h
    refine ⟨fun k => [b0, b1].getD k 0x00#8, u.popped 2#16, ?_, ?_, ?_⟩
    · simp only [linkPopOrder, hm, reduceCtorEq, if_false]
      exact ⟨r0, r1, trivial⟩
    · rw [hu]
      simp only [linkSize, linkPopOrder, hm, reduceCtorEq, if_false]
      rfl
    · rw [← h]; simp [leWord_two]
  | large =>
    simp only [State.isLarge, hm, beq_self_eq_true, if_true, andThen_eq_next,
      Host.Outcome.next.injEq] at h
    obtain ⟨b2, h2, h⟩ := h
    have hsame : ∀ g o, u.readByte g o =
        ((s.afterRead 0x00#8 (s.sp + BitVec.ofNat 16 0)).afterRead 0x00#8
          (s.sp + BitVec.ofNat 16 1)).readByte g o := by
      refine fun g o => readByte_congr ?_ ?_ ?_ ?_ g o <;> rw [hu]
      · rfl
      · rfl
      · rfl
      · simp [readsSeen, List.range_succ_eq_map]
    refine ⟨fun k => [b0, b1, b2].getD k 0x00#8,
      (u.afterRead 0x00#8 (s.sp + 2#16)).popped 4#16, ?_, ?_, ?_⟩
    · simp only [linkPopOrder, hm, if_true]
      exact ⟨r0, r1, by rw [← hsame]; exact h2, trivial⟩
    · rw [hu]
      simp only [linkSize, linkPopOrder, hm, if_true, State.afterRead, State.popped]
      simp [readsSeen, List.range_succ_eq_map]
    · rw [← h]; simp [leWord_two]

/-- What POP of registers does, if it goes on (spec/44_push_pop.md R252 to R255). -/
theorem popRegs_spec {s t : State} {n : RegNo} {k : Nat} {size : Word}
    (h : popRegs n k size s = .next t) :
    s.dsrPrefix = false ∧ s.sp.getLsbD 0 = false ∧ ∃ bs : List Byte, bs.length = k ∧
      ReadsBytes s 0x00#8 s.sp (fun j => bs.getD j 0x00#8) (List.range k) ∧
      t = { s with regs := (s.setRBytes n bs).regs, sp := s.sp + size, ar := t.ar,
                   deviceLog := s.deviceLog ++ readsSeen s.cfg 0x00#8 s.sp (List.range k)
                   pc := s.nextPc 1, dsrPrefix := false, intBlock := false } := by
  simp only [popRegs, andThen_eq_next, stackReady_eq_next, Host.Outcome.next.injEq] at h
  obtain ⟨w, ⟨hp, hsp, rfl⟩, ⟨bs, u⟩, hr, e⟩ := h
  simp only [State.memRead, accessBase_of_even hsp] at hr
  obtain ⟨hl, hrd, hu⟩ := readBytes_eq_next.mp hr
  refine ⟨hp, hsp, bs, hl, hrd, ?_⟩
  have hregs := setRBytes_regs_congr (s := w) (t := u.popped size) (by rw [hu]; rfl) n bs
  rw [← e, setRBytes_eq (u.popped size), hregs, hu]
  rfl

/-! ## Other operations -/

/-- What a coprocessor load does, if it goes on (spec/45_coprocessor.md R260). -/
theorem loadCregs_spec {s t : State} {n : RegNo} {size : Nat} {ea' : Word}
    (h : loadCregs s n size ea' = .next t) :
    ∃ bs : List Byte, bs.length = size ∧
      ReadsBytes s s.dseg (accessBase s.ea size) (fun k => bs.getD k 0x00#8) (List.range size) ∧
      t = { s with cregs := (s.setCrBytes n bs).cregs, ea := ea', ar := t.ar, pc := s.nextPc 1,
                   dsrPrefix := false, intBlock := false
                   deviceLog := s.deviceLog ++
                     readsSeen s.cfg s.dseg (accessBase s.ea size) (List.range size) } := by
  simp only [loadCregs, State.memRead, andThen_eq_next, Host.Outcome.next.injEq] at h
  obtain ⟨⟨bs, u⟩, hr, e⟩ := h
  obtain ⟨hl, hrd, hu⟩ := readBytes_eq_next.mp hr
  refine ⟨bs, hl, hrd, ?_⟩
  have hregs := setCrBytes_cregs_congr (s := s) (t := u) (by rw [hu]) n bs
  rw [← e, setCrBytes_eq u, hregs, hu]
  rfl

/-- What a byte read, changed and written back does, if it goes on: one read, then one write
(spec/20_memory.md R65, R70). -/
theorem modifyByte_spec {s t : State} {off : Word} {f psw' : Byte → Byte} {words : Nat}
    (h : modifyByte s off f psw' words = .next t) :
    ∃ v, s.readByte s.dseg off = .next v ∧ Writable s s.dseg off ∧
      t = { s with data := t.data, deviceLog := t.deviceLog, ar := off, psw := psw' v,
                   pc := s.nextPc words, dsrPrefix := false, intBlock := false } ∧
      WritesBytes (s.afterRead s.dseg off) t s.dseg off (fun _ => f v) [0] := by
  simp only [modifyByte, andThen_eq_next, Host.Outcome.next.injEq] at h
  obtain ⟨v, hv, u, hu, e⟩ := h
  obtain ⟨hw, eu⟩ := writeByte_eq_next.mp hu
  refine ⟨v, hv, (writable_congr (s := s) rfl _ _).mp hw, by rw [← e, eu]; rfl, ?_⟩
  have := writesBytes_append (k := 0) (v := fun _ => f v) rfl (by simp)
    (writesBytes_nil (s.afterRead s.dseg off) s.dseg off _) (by simpa using hu)
  refine writesBytes_congr ?_ ?_ ?_ ?_ this <;> rw [← e] <;> rfl

/-- A byte that can be read and written is read, changed and written back. -/
theorem modifyByte_of_writable {s : State} {off : Word} {f psw' : Byte → Byte} {words : Nat}
    {v : Byte} (hr : s.readByte s.dseg off = .next v) (hw : Writable s s.dseg off) :
    ∃ t, modifyByte s off f psw' words = .next t := by
  obtain ⟨u, hu⟩ := writeByte_of_writable (s := s.afterRead s.dseg off) (v := f v)
    ((writable_congr (s := s) rfl _ _).mpr hw)
  exact ⟨_, by rw [modifyByte, hr, andThen_next, hu, andThen_next]⟩

/-- What a shift does: with a count of 0 neither the register nor C changes
(spec/41_shift.md R150). -/
theorem finishShift_spec (s : State) (n : RegNo) (k : Nat) (value : Byte) (last : Bool) :
    ∃ t, finishShift s n k value last = .next t ∧ FrameRegs s t 1 ∧ KeepsRegsBut s t n 1 ∧
      t.r n = (if k = 0 then s.r n else value) ∧
      t.psw = if k = 0 then s.psw else setFlag s.psw .c last := by
  unfold finishShift
  split
  · exact ⟨_, rfl, ⟨rfl, sameData_of_eq rfl rfl rfl rfl⟩, keepsRegsBut_of_eq rfl _ _, rfl, rfl⟩
  · exact finishR_spec s n value _

/-- What the reset sequence does, if it goes on (spec/70_reset_and_hazards.md R410). -/
theorem systemReset_spec {s t : State} (h : systemReset s = .next t) :
    ∃ spInit pcInit, s.codeRead16 0x0#4 0x0000#16 = .next spInit ∧
      s.codeRead16 0x0#4 0x0002#16 = .next pcInit ∧ t.psw = 0x00#8 ∧ t.csr = 0x0#4 ∧
      t.dsr = 0x00#8 ∧ t.sp = spInit ∧ t.pc = evenAddr pcInit ∧ t.dsrPrefix = false ∧
      t.intBlock = true ∧ t.eiWindow = 0 ∧ t.cfg = s.cfg ∧ t.code = s.code ∧ t.data = s.data ∧
      t.deviceLog = s.deviceLog ++ [.reset] ∧ t.inputs = s.inputs ∧ t.ack = s.ack := by
  simp only [systemReset, andThen_eq_next, Host.Outcome.next.injEq] at h
  obtain ⟨a, ha, b, hb, e⟩ := h
  subst e
  exact ⟨a, b, ha, hb, rfl, rfl, rfl, rfl, rfl, rfl, rfl, rfl, rfl, rfl, rfl, rfl, rfl, rfl⟩

end Sys2Proof.Machine
end

