-- ==== Sys2Proof/Laws/Forms.lean ====
section
/-! SUPPORT. The tables of Safety.lean against the meanings, and what a boundary does. -/

namespace Sys2Proof.Machine

/-! ## The memory forms -/

/-- Every form of L is a load of its table row. -/
theorem exec_of_loadAccess {i : Instr} {s : State} {x : Access} (h : loadAccess i s = some x) :
    (x.size = 1 ∨ x.size = 2 ∨ x.size = 4 ∨ x.size = 8) ∧
      exec i s = loadRegs s x.reg x.size x.addr x.eaAfter x.words := by
  cases i <;> simp only [loadAccess, Option.some.injEq, reduceCtorEq] at h <;> subst h <;>
    exact ⟨by simp, rfl⟩

/-- Every form of ST is a store of its table row. -/
theorem exec_of_storeAccess {i : Instr} {s : State} {x : Access} (h : storeAccess i s = some x) :
    (x.size = 1 ∨ x.size = 2 ∨ x.size = 4 ∨ x.size = 8) ∧
      exec i s = storeBytes s (s.rBytes x.reg x.size) x.addr x.eaAfter x.words := by
  cases i <;> simp only [storeAccess, Option.some.injEq, reduceCtorEq] at h <;> subst h <;>
    exact ⟨by simp, rfl⟩

/-- Every move from memory to the coprocessor is a load of its table row. -/
theorem exec_of_coLoadAccess {i : Instr} {s : State} {x : Access}
    (h : coLoadAccess i s = some x) :
    (x.size = 1 ∨ x.size = 2 ∨ x.size = 4 ∨ x.size = 8) ∧ x.addr = s.ea ∧ x.words = 1 ∧
      exec i s = loadCregs s x.reg x.size x.eaAfter := by
  cases i <;> simp only [coLoadAccess, Option.some.injEq, reduceCtorEq] at h <;> subst h <;>
    exact ⟨by simp, rfl, rfl, rfl⟩

/-- Every move from the coprocessor to memory is a store of its table row. -/
theorem exec_of_coStoreAccess {i : Instr} {s : State} {x : Access}
    (h : coStoreAccess i s = some x) :
    (x.size = 1 ∨ x.size = 2 ∨ x.size = 4 ∨ x.size = 8) ∧
      exec i s = storeBytes s (s.crBytes x.reg x.size) x.addr x.eaAfter x.words := by
  cases i <;> simp only [coStoreAccess, Option.some.injEq, reduceCtorEq] at h <;> subst h <;>
    exact ⟨by simp, rfl⟩

/-- An access starts where the table says. -/
theorem accessBase_eq_alignedTo (a : Word) (n : Nat) : accessBase a n = alignedTo n a := rfl

/-! ## The stack forms -/

/-- Every PUSH list pushes its table row. -/
theorem exec_of_pushListOf {i : Instr} {s : State} {x : StackList} (h : pushListOf i = some x) :
    exec i s = pushList x.lr x.psw x.pc x.ea s := by
  cases i <;> simp only [pushListOf, Option.some.injEq, reduceCtorEq] at h <;> subst h <;> rfl

/-- Every POP list pops its table row. -/
theorem exec_of_popListOf {i : Instr} {s : State} {x : StackList} (h : popListOf i = some x) :
    exec i s = popList x.lr x.psw x.pc x.ea s := by
  cases i <;> simp only [popListOf, Option.some.injEq, reduceCtorEq] at h <;> subst h <;> rfl

/-- Every single-register POP pops its table row. -/
theorem exec_of_popRegOf {i : Instr} {s : State} {n : RegNo} {k : Nat}
    (h : popRegOf i = some (n, k)) :
    (k = 1 ∨ k = 2 ∨ k = 4 ∨ k = 8) ∧ exec i s = popRegs n k (BitVec.ofNat 16 (stackRoom k)) s := by
  cases i <;> simp only [popRegOf, Option.some.injEq, Prod.mk.injEq, reduceCtorEq] at h <;>
    obtain ⟨rfl, rfl⟩ := h <;> exact ⟨by simp, rfl⟩

/-- Every single-register PUSH above byte size pushes its table row. -/
theorem exec_of_pushRegOf {i : Instr} {s : State} {n : RegNo} {k : Nat}
    (h : pushRegOf i = some (n, k)) :
    k = 1 ∧ i = .pushRn n ∨ (k = 2 ∨ k = 4 ∨ k = 8) ∧ exec i s = pushRegs n k s := by
  cases i <;> simp only [pushRegOf, Option.some.injEq, Prod.mk.injEq, reduceCtorEq] at h <;>
    obtain ⟨rfl, rfl⟩ := h
  · exact .inl ⟨rfl, rfl⟩
  all_goals exact .inr ⟨by simp, rfl⟩

/-! ## Values of several bytes -/

/-- A little-endian value is zero when all its bytes are. -/
theorem leNat_eq_zero (l : List Byte) : leNat l = 0 ↔ ∀ b ∈ l, b = 0x00#8 := by
  induction l with
  | nil => simp [leNat]
  | cons a l ih =>
    have ha : a.toNat = 0 ↔ a = 0x00#8 := by rw [← BitVec.toNat_inj]; rfl
    simp only [leNat, Nat.add_eq_zero_iff, Nat.mul_eq_zero, OfNat.ofNat_ne_zero, false_or, ih, ha,
      List.mem_cons, forall_eq_or_imp]

/-- Its top bit is that of its last byte. -/
theorem leNat_testBit_top (l : List Byte) (b : Byte) :
    (leNat (l ++ [b])).testBit (8 * (l.length + 1) - 1) = b.msb := by
  induction l with
  | nil => simp [leNat, BitVec.msb_eq_getLsbD_last, BitVec.getLsbD]
  | cons a l ih =>
    simp only [List.cons_append, leNat, List.length_cons]
    rw [show 8 * (l.length + 1 + 1) - 1 = (8 * (l.length + 1) - 1) + 8 by omega, Nat.testBit_add]
    have := a.isLt
    rw [show (a.toNat + 256 * leNat (l ++ [b])) / 2 ^ 8 = leNat (l ++ [b]) by omega, ih]

/-! ## Boundaries -/

/-- A boundary at which nothing is acceptable runs an instruction. -/
theorem boundary_of_runsInstruction {s : State} (h : RunsInstruction s) :
    s.boundary = .execute s.tick := by
  obtain ⟨hr, hb⟩ := h
  rcases hb with h | ⟨h, h', h''⟩
  · simp [State.boundary, hr, h]
  · cases hi : s.intBlock <;> simp [State.boundary, hr, h, h', h'', hi]

/-- The vector of a maskable request, as a number. -/
theorem miVector_eq (k : Fin 59) : miVector k = BitVec.ofNat 16 (0x000A + 2 * k.val) := by
  apply BitVec.eq_of_toNat_eq
  simp [miVector]

/-- What an accepting or resetting step, or one that runs an instruction, starts from. -/
theorem step_of_boundary (s : State) :
    step s = match s.boundary with
      | .reset t => systemReset t
      | .accept k vector t => enterException t k t.pc vector (k == .one)
      | .stop why => .refused why
      | .execute t => andThen (fetch t) fun i => exec i t := rfl

/-- The state a boundary passes on keeps every register and both memories. -/
theorem tick_registers (s : State) :
    s.tick = { s with inputs := s.inputs.tail, ack := none, eiWindow := s.eiWindow - 1,
                      deviceLog := s.deviceLog ++ [.boundary] } := rfl

end Sys2Proof.Machine
end

