-- ==== Sys2Proof/Laws/PerInstr.lean ====
section
/-! SUPPORT. Statements for all instructions, one lemma per constructor. -/

namespace Sys2Proof.Laws

/-- The encoding of an instruction has as many words as the instruction (spec/30_encoding.md R90). -/
def EncodedLength.Statement (i : Instr) : Prop := (encode i).length = i.words

theorem EncodedLength.addRnRm (n m : RegNo) : EncodedLength.Statement (.addRnRm n m) := rfl
theorem EncodedLength.addRnImm8 (n : RegNo) (imm : Byte) :
    EncodedLength.Statement (.addRnImm8 n imm) := rfl
theorem EncodedLength.movRnRm (n m : RegNo) : EncodedLength.Statement (.movRnRm n m) := rfl
theorem EncodedLength.movRnImm8 (n : RegNo) (imm : Byte) :
    EncodedLength.Statement (.movRnImm8 n imm) := rfl
theorem EncodedLength.addcRnRm (n m : RegNo) : EncodedLength.Statement (.addcRnRm n m) := rfl
theorem EncodedLength.addcRnImm8 (n : RegNo) (imm : Byte) :
    EncodedLength.Statement (.addcRnImm8 n imm) := rfl
theorem EncodedLength.cmpRnRm (n m : RegNo) : EncodedLength.Statement (.cmpRnRm n m) := rfl
theorem EncodedLength.cmpRnImm8 (n : RegNo) (imm : Byte) :
    EncodedLength.Statement (.cmpRnImm8 n imm) := rfl
theorem EncodedLength.cmpcRnRm (n m : RegNo) : EncodedLength.Statement (.cmpcRnRm n m) := rfl
theorem EncodedLength.cmpcRnImm8 (n : RegNo) (imm : Byte) :
    EncodedLength.Statement (.cmpcRnImm8 n imm) := rfl
theorem EncodedLength.andRnRm (n m : RegNo) : EncodedLength.Statement (.andRnRm n m) := rfl
theorem EncodedLength.andRnImm8 (n : RegNo) (imm : Byte) :
    EncodedLength.Statement (.andRnImm8 n imm) := rfl
theorem EncodedLength.orRnRm (n m : RegNo) : EncodedLength.Statement (.orRnRm n m) := rfl
theorem EncodedLength.orRnImm8 (n : RegNo) (imm : Byte) :
    EncodedLength.Statement (.orRnImm8 n imm) := rfl
theorem EncodedLength.xorRnRm (n m : RegNo) : EncodedLength.Statement (.xorRnRm n m) := rfl
theorem EncodedLength.xorRnImm8 (n : RegNo) (imm : Byte) :
    EncodedLength.Statement (.xorRnImm8 n imm) := rfl
theorem EncodedLength.subRnRm (n m : RegNo) : EncodedLength.Statement (.subRnRm n m) := rfl
theorem EncodedLength.subcRnRm (n m : RegNo) : EncodedLength.Statement (.subcRnRm n m) := rfl
theorem EncodedLength.movErnErm (n m : RegNo) : EncodedLength.Statement (.movErnErm n m) := rfl
theorem EncodedLength.movErnImm7 (n : RegNo) (imm : BitVec 7) :
    EncodedLength.Statement (.movErnImm7 n imm) := rfl
theorem EncodedLength.addErnErm (n m : RegNo) : EncodedLength.Statement (.addErnErm n m) := rfl
theorem EncodedLength.addErnImm7 (n : RegNo) (imm : BitVec 7) :
    EncodedLength.Statement (.addErnImm7 n imm) := rfl
theorem EncodedLength.cmpErnErm (n m : RegNo) : EncodedLength.Statement (.cmpErnErm n m) := rfl
theorem EncodedLength.sllRnRm (n m : RegNo) : EncodedLength.Statement (.sllRnRm n m) := rfl
theorem EncodedLength.sllRnWidth (n : RegNo) (width : BitVec 3) :
    EncodedLength.Statement (.sllRnWidth n width) := rfl
theorem EncodedLength.sllcRnRm (n m : RegNo) : EncodedLength.Statement (.sllcRnRm n m) := rfl
theorem EncodedLength.sllcRnWidth (n : RegNo) (width : BitVec 3) :
    EncodedLength.Statement (.sllcRnWidth n width) := rfl
theorem EncodedLength.sraRnRm (n m : RegNo) : EncodedLength.Statement (.sraRnRm n m) := rfl
theorem EncodedLength.sraRnWidth (n : RegNo) (width : BitVec 3) :
    EncodedLength.Statement (.sraRnWidth n width) := rfl
theorem EncodedLength.srlRnRm (n m : RegNo) : EncodedLength.Statement (.srlRnRm n m) := rfl
theorem EncodedLength.srlRnWidth (n : RegNo) (width : BitVec 3) :
    EncodedLength.Statement (.srlRnWidth n width) := rfl
theorem EncodedLength.srlcRnRm (n m : RegNo) : EncodedLength.Statement (.srlcRnRm n m) := rfl
theorem EncodedLength.srlcRnWidth (n : RegNo) (width : BitVec 3) :
    EncodedLength.Statement (.srlcRnWidth n width) := rfl
theorem EncodedLength.dsrPrefixSeg (imm : Byte) : EncodedLength.Statement (.dsrPrefixSeg imm) := rfl
theorem EncodedLength.dsrPrefixRd (d : RegNo) : EncodedLength.Statement (.dsrPrefixRd d) := rfl
theorem EncodedLength.dsrPrefixDsr : EncodedLength.Statement .dsrPrefixDsr := rfl
theorem EncodedLength.lErnEa (n : RegNo) : EncodedLength.Statement (.lErnEa n) := rfl
theorem EncodedLength.lErnEaInc (n : RegNo) : EncodedLength.Statement (.lErnEaInc n) := rfl
theorem EncodedLength.lErnErm (n m : RegNo) : EncodedLength.Statement (.lErnErm n m) := rfl
theorem EncodedLength.lErnDisp16Erm (n m : RegNo) (disp : Word) :
    EncodedLength.Statement (.lErnDisp16Erm n m disp) := rfl
theorem EncodedLength.lErnDisp6Bp (n : RegNo) (disp : BitVec 6) :
    EncodedLength.Statement (.lErnDisp6Bp n disp) := rfl
theorem EncodedLength.lErnDisp6Fp (n : RegNo) (disp : BitVec 6) :
    EncodedLength.Statement (.lErnDisp6Fp n disp) := rfl
theorem EncodedLength.lErnDadr (n : RegNo) (dadr : Word) :
    EncodedLength.Statement (.lErnDadr n dadr) := rfl
theorem EncodedLength.lRnEa (n : RegNo) : EncodedLength.Statement (.lRnEa n) := rfl
theorem EncodedLength.lRnEaInc (n : RegNo) : EncodedLength.Statement (.lRnEaInc n) := rfl
theorem EncodedLength.lRnErm (n m : RegNo) : EncodedLength.Statement (.lRnErm n m) := rfl
theorem EncodedLength.lRnDisp16Erm (n m : RegNo) (disp : Word) :
    EncodedLength.Statement (.lRnDisp16Erm n m disp) := rfl
theorem EncodedLength.lRnDisp6Bp (n : RegNo) (disp : BitVec 6) :
    EncodedLength.Statement (.lRnDisp6Bp n disp) := rfl
theorem EncodedLength.lRnDisp6Fp (n : RegNo) (disp : BitVec 6) :
    EncodedLength.Statement (.lRnDisp6Fp n disp) := rfl
theorem EncodedLength.lRnDadr (n : RegNo) (dadr : Word) :
    EncodedLength.Statement (.lRnDadr n dadr) := rfl
theorem EncodedLength.lXrnEa (n : RegNo) : EncodedLength.Statement (.lXrnEa n) := rfl
theorem EncodedLength.lXrnEaInc (n : RegNo) : EncodedLength.Statement (.lXrnEaInc n) := rfl
theorem EncodedLength.lQrnEa (n : RegNo) : EncodedLength.Statement (.lQrnEa n) := rfl
theorem EncodedLength.lQrnEaInc (n : RegNo) : EncodedLength.Statement (.lQrnEaInc n) := rfl
theorem EncodedLength.stErnEa (n : RegNo) : EncodedLength.Statement (.stErnEa n) := rfl
theorem EncodedLength.stErnEaInc (n : RegNo) : EncodedLength.Statement (.stErnEaInc n) := rfl
theorem EncodedLength.stErnErm (n m : RegNo) : EncodedLength.Statement (.stErnErm n m) := rfl
theorem EncodedLength.stErnDisp16Erm (n m : RegNo) (disp : Word) :
    EncodedLength.Statement (.stErnDisp16Erm n m disp) := rfl
theorem EncodedLength.stErnDisp6Bp (n : RegNo) (disp : BitVec 6) :
    EncodedLength.Statement (.stErnDisp6Bp n disp) := rfl
theorem EncodedLength.stErnDisp6Fp (n : RegNo) (disp : BitVec 6) :
    EncodedLength.Statement (.stErnDisp6Fp n disp) := rfl
theorem EncodedLength.stErnDadr (n : RegNo) (dadr : Word) :
    EncodedLength.Statement (.stErnDadr n dadr) := rfl
theorem EncodedLength.stRnEa (n : RegNo) : EncodedLength.Statement (.stRnEa n) := rfl
theorem EncodedLength.stRnEaInc (n : RegNo) : EncodedLength.Statement (.stRnEaInc n) := rfl
theorem EncodedLength.stRnErm (n m : RegNo) : EncodedLength.Statement (.stRnErm n m) := rfl
theorem EncodedLength.stRnDisp16Erm (n m : RegNo) (disp : Word) :
    EncodedLength.Statement (.stRnDisp16Erm n m disp) := rfl
theorem EncodedLength.stRnDisp6Bp (n : RegNo) (disp : BitVec 6) :
    EncodedLength.Statement (.stRnDisp6Bp n disp) := rfl
theorem EncodedLength.stRnDisp6Fp (n : RegNo) (disp : BitVec 6) :
    EncodedLength.Statement (.stRnDisp6Fp n disp) := rfl
theorem EncodedLength.stRnDadr (n : RegNo) (dadr : Word) :
    EncodedLength.Statement (.stRnDadr n dadr) := rfl
theorem EncodedLength.stXrnEa (n : RegNo) : EncodedLength.Statement (.stXrnEa n) := rfl
theorem EncodedLength.stXrnEaInc (n : RegNo) : EncodedLength.Statement (.stXrnEaInc n) := rfl
theorem EncodedLength.stQrnEa (n : RegNo) : EncodedLength.Statement (.stQrnEa n) := rfl
theorem EncodedLength.stQrnEaInc (n : RegNo) : EncodedLength.Statement (.stQrnEaInc n) := rfl
theorem EncodedLength.addSpSigned8 (imm : Byte) : EncodedLength.Statement (.addSpSigned8 imm) := rfl
theorem EncodedLength.movEcsrRm (m : RegNo) : EncodedLength.Statement (.movEcsrRm m) := rfl
theorem EncodedLength.movElrErm (m : RegNo) : EncodedLength.Statement (.movElrErm m) := rfl
theorem EncodedLength.movEpswRm (m : RegNo) : EncodedLength.Statement (.movEpswRm m) := rfl
theorem EncodedLength.movErnElr (n : RegNo) : EncodedLength.Statement (.movErnElr n) := rfl
theorem EncodedLength.movErnSp (n : RegNo) : EncodedLength.Statement (.movErnSp n) := rfl
theorem EncodedLength.movPswRm (m : RegNo) : EncodedLength.Statement (.movPswRm m) := rfl
theorem EncodedLength.movPswUnsigned8 (imm : Byte) :
    EncodedLength.Statement (.movPswUnsigned8 imm) := rfl
theorem EncodedLength.movRnEcsr (n : RegNo) : EncodedLength.Statement (.movRnEcsr n) := rfl
theorem EncodedLength.movRnEpsw (n : RegNo) : EncodedLength.Statement (.movRnEpsw n) := rfl
theorem EncodedLength.movRnPsw (n : RegNo) : EncodedLength.Statement (.movRnPsw n) := rfl
theorem EncodedLength.movSpErm (m : RegNo) : EncodedLength.Statement (.movSpErm m) := rfl
theorem EncodedLength.pushRn (n : RegNo) : EncodedLength.Statement (.pushRn n) := rfl
theorem EncodedLength.pushErn (n : RegNo) : EncodedLength.Statement (.pushErn n) := rfl
theorem EncodedLength.pushXrn (n : RegNo) : EncodedLength.Statement (.pushXrn n) := rfl
theorem EncodedLength.pushQrn (n : RegNo) : EncodedLength.Statement (.pushQrn n) := rfl
theorem EncodedLength.pushEa : EncodedLength.Statement .pushEa := rfl
theorem EncodedLength.pushElr : EncodedLength.Statement .pushElr := rfl
theorem EncodedLength.pushElrEa : EncodedLength.Statement .pushElrEa := rfl
theorem EncodedLength.pushEpsw : EncodedLength.Statement .pushEpsw := rfl
theorem EncodedLength.pushEpswEa : EncodedLength.Statement .pushEpswEa := rfl
theorem EncodedLength.pushElrEpsw : EncodedLength.Statement .pushElrEpsw := rfl
theorem EncodedLength.pushElrEpswEa : EncodedLength.Statement .pushElrEpswEa := rfl
theorem EncodedLength.pushLr : EncodedLength.Statement .pushLr := rfl
theorem EncodedLength.pushLrEa : EncodedLength.Statement .pushLrEa := rfl
theorem EncodedLength.pushElrLr : EncodedLength.Statement .pushElrLr := rfl
theorem EncodedLength.pushElrLrEa : EncodedLength.Statement .pushElrLrEa := rfl
theorem EncodedLength.pushEpswLr : EncodedLength.Statement .pushEpswLr := rfl
theorem EncodedLength.pushEpswLrEa : EncodedLength.Statement .pushEpswLrEa := rfl
theorem EncodedLength.pushElrEpswLr : EncodedLength.Statement .pushElrEpswLr := rfl
theorem EncodedLength.pushElrEpswLrEa : EncodedLength.Statement .pushElrEpswLrEa := rfl
theorem EncodedLength.popEa : EncodedLength.Statement .popEa := rfl
theorem EncodedLength.popPc : EncodedLength.Statement .popPc := rfl
theorem EncodedLength.popEaPc : EncodedLength.Statement .popEaPc := rfl
theorem EncodedLength.popPsw : EncodedLength.Statement .popPsw := rfl
theorem EncodedLength.popEaPsw : EncodedLength.Statement .popEaPsw := rfl
theorem EncodedLength.popPswPc : EncodedLength.Statement .popPswPc := rfl
theorem EncodedLength.popEaPswPc : EncodedLength.Statement .popEaPswPc := rfl
theorem EncodedLength.popLr : EncodedLength.Statement .popLr := rfl
theorem EncodedLength.popEaLr : EncodedLength.Statement .popEaLr := rfl
theorem EncodedLength.popLrPc : EncodedLength.Statement .popLrPc := rfl
theorem EncodedLength.popEaLrPc : EncodedLength.Statement .popEaLrPc := rfl
theorem EncodedLength.popLrPsw : EncodedLength.Statement .popLrPsw := rfl
theorem EncodedLength.popEaLrPsw : EncodedLength.Statement .popEaLrPsw := rfl
theorem EncodedLength.popLrPswPc : EncodedLength.Statement .popLrPswPc := rfl
theorem EncodedLength.popEaLrPswPc : EncodedLength.Statement .popEaLrPswPc := rfl
theorem EncodedLength.popRn (n : RegNo) : EncodedLength.Statement (.popRn n) := rfl
theorem EncodedLength.popErn (n : RegNo) : EncodedLength.Statement (.popErn n) := rfl
theorem EncodedLength.popXrn (n : RegNo) : EncodedLength.Statement (.popXrn n) := rfl
theorem EncodedLength.popQrn (n : RegNo) : EncodedLength.Statement (.popQrn n) := rfl
theorem EncodedLength.movCrnRm (n m : RegNo) : EncodedLength.Statement (.movCrnRm n m) := rfl
theorem EncodedLength.movRnCrm (n m : RegNo) : EncodedLength.Statement (.movRnCrm n m) := rfl
theorem EncodedLength.movCrnEa (n : RegNo) : EncodedLength.Statement (.movCrnEa n) := rfl
theorem EncodedLength.movCrnEaInc (n : RegNo) : EncodedLength.Statement (.movCrnEaInc n) := rfl
theorem EncodedLength.movCernEa (n : RegNo) : EncodedLength.Statement (.movCernEa n) := rfl
theorem EncodedLength.movCernEaInc (n : RegNo) : EncodedLength.Statement (.movCernEaInc n) := rfl
theorem EncodedLength.movCxrnEa (n : RegNo) : EncodedLength.Statement (.movCxrnEa n) := rfl
theorem EncodedLength.movCxrnEaInc (n : RegNo) : EncodedLength.Statement (.movCxrnEaInc n) := rfl
theorem EncodedLength.movCqrnEa (n : RegNo) : EncodedLength.Statement (.movCqrnEa n) := rfl
theorem EncodedLength.movCqrnEaInc (n : RegNo) : EncodedLength.Statement (.movCqrnEaInc n) := rfl
theorem EncodedLength.movEaCrm (m : RegNo) : EncodedLength.Statement (.movEaCrm m) := rfl
theorem EncodedLength.movEaIncCrm (m : RegNo) : EncodedLength.Statement (.movEaIncCrm m) := rfl
theorem EncodedLength.movEaCerm (m : RegNo) : EncodedLength.Statement (.movEaCerm m) := rfl
theorem EncodedLength.movEaIncCerm (m : RegNo) : EncodedLength.Statement (.movEaIncCerm m) := rfl
theorem EncodedLength.movEaCxrm (m : RegNo) : EncodedLength.Statement (.movEaCxrm m) := rfl
theorem EncodedLength.movEaIncCxrm (m : RegNo) : EncodedLength.Statement (.movEaIncCxrm m) := rfl
theorem EncodedLength.movEaCqrm (m : RegNo) : EncodedLength.Statement (.movEaCqrm m) := rfl
theorem EncodedLength.movEaIncCqrm (m : RegNo) : EncodedLength.Statement (.movEaIncCqrm m) := rfl
theorem EncodedLength.leaErm (m : RegNo) : EncodedLength.Statement (.leaErm m) := rfl
theorem EncodedLength.leaDisp16Erm (m : RegNo) (disp : Word) :
    EncodedLength.Statement (.leaDisp16Erm m disp) := rfl
theorem EncodedLength.leaDadr (dadr : Word) : EncodedLength.Statement (.leaDadr dadr) := rfl
theorem EncodedLength.daaRn (n : RegNo) : EncodedLength.Statement (.daaRn n) := rfl
theorem EncodedLength.dasRn (n : RegNo) : EncodedLength.Statement (.dasRn n) := rfl
theorem EncodedLength.negRn (n : RegNo) : EncodedLength.Statement (.negRn n) := rfl
theorem EncodedLength.sbRnBit (n : RegNo) (bit : BitVec 3) :
    EncodedLength.Statement (.sbRnBit n bit) := rfl
theorem EncodedLength.sbDbitadr (bit : BitVec 3) (dadr : Word) :
    EncodedLength.Statement (.sbDbitadr bit dadr) := rfl
theorem EncodedLength.rbRnBit (n : RegNo) (bit : BitVec 3) :
    EncodedLength.Statement (.rbRnBit n bit) := rfl
theorem EncodedLength.rbDbitadr (bit : BitVec 3) (dadr : Word) :
    EncodedLength.Statement (.rbDbitadr bit dadr) := rfl
theorem EncodedLength.tbRnBit (n : RegNo) (bit : BitVec 3) :
    EncodedLength.Statement (.tbRnBit n bit) := rfl
theorem EncodedLength.tbDbitadr (bit : BitVec 3) (dadr : Word) :
    EncodedLength.Statement (.tbDbitadr bit dadr) := rfl
theorem EncodedLength.ei : EncodedLength.Statement .ei := rfl
theorem EncodedLength.di : EncodedLength.Statement .di := rfl
theorem EncodedLength.sc : EncodedLength.Statement .sc := rfl
theorem EncodedLength.rc : EncodedLength.Statement .rc := rfl
theorem EncodedLength.cplc : EncodedLength.Statement .cplc := rfl
theorem EncodedLength.bge (radr : Byte) : EncodedLength.Statement (.bge radr) := rfl
theorem EncodedLength.blt (radr : Byte) : EncodedLength.Statement (.blt radr) := rfl
theorem EncodedLength.bgt (radr : Byte) : EncodedLength.Statement (.bgt radr) := rfl
theorem EncodedLength.ble (radr : Byte) : EncodedLength.Statement (.ble radr) := rfl
theorem EncodedLength.bges (radr : Byte) : EncodedLength.Statement (.bges radr) := rfl
theorem EncodedLength.blts (radr : Byte) : EncodedLength.Statement (.blts radr) := rfl
theorem EncodedLength.bgts (radr : Byte) : EncodedLength.Statement (.bgts radr) := rfl
theorem EncodedLength.bles (radr : Byte) : EncodedLength.Statement (.bles radr) := rfl
theorem EncodedLength.bne (radr : Byte) : EncodedLength.Statement (.bne radr) := rfl
theorem EncodedLength.beq (radr : Byte) : EncodedLength.Statement (.beq radr) := rfl
theorem EncodedLength.bnv (radr : Byte) : EncodedLength.Statement (.bnv radr) := rfl
theorem EncodedLength.bov (radr : Byte) : EncodedLength.Statement (.bov radr) := rfl
theorem EncodedLength.bps (radr : Byte) : EncodedLength.Statement (.bps radr) := rfl
theorem EncodedLength.bns (radr : Byte) : EncodedLength.Statement (.bns radr) := rfl
theorem EncodedLength.bal (radr : Byte) : EncodedLength.Statement (.bal radr) := rfl
theorem EncodedLength.extbwEr0 : EncodedLength.Statement .extbwEr0 := rfl
theorem EncodedLength.extbwEr2 : EncodedLength.Statement .extbwEr2 := rfl
theorem EncodedLength.extbwEr4 : EncodedLength.Statement .extbwEr4 := rfl
theorem EncodedLength.extbwEr6 : EncodedLength.Statement .extbwEr6 := rfl
theorem EncodedLength.extbwEr8 : EncodedLength.Statement .extbwEr8 := rfl
theorem EncodedLength.extbwEr10 : EncodedLength.Statement .extbwEr10 := rfl
theorem EncodedLength.extbwEr12 : EncodedLength.Statement .extbwEr12 := rfl
theorem EncodedLength.extbwEr14 : EncodedLength.Statement .extbwEr14 := rfl
theorem EncodedLength.swi (snum : BitVec 6) : EncodedLength.Statement (.swi snum) := rfl
theorem EncodedLength.brk : EncodedLength.Statement .brk := rfl
theorem EncodedLength.bCadr (g : Nibble) (cadr : Word) :
    EncodedLength.Statement (.bCadr g cadr) := rfl
theorem EncodedLength.bErn (n : RegNo) : EncodedLength.Statement (.bErn n) := rfl
theorem EncodedLength.blCadr (g : Nibble) (cadr : Word) :
    EncodedLength.Statement (.blCadr g cadr) := rfl
theorem EncodedLength.blErn (n : RegNo) : EncodedLength.Statement (.blErn n) := rfl
theorem EncodedLength.mulErnRm (n m : RegNo) : EncodedLength.Statement (.mulErnRm n m) := rfl
theorem EncodedLength.divErnRm (n m : RegNo) : EncodedLength.Statement (.divErnRm n m) := rfl
theorem EncodedLength.incEa : EncodedLength.Statement .incEa := rfl
theorem EncodedLength.decEa : EncodedLength.Statement .decEa := rfl
theorem EncodedLength.rt : EncodedLength.Statement .rt := rfl
theorem EncodedLength.rti : EncodedLength.Statement .rti := rfl
theorem EncodedLength.nop : EncodedLength.Statement .nop := rfl

end Sys2Proof.Laws
end

