-- ==== Sys2Proof/Tests/Slice0.lean ====
section
/-! SUPPORT. Tests: what WellFormed refuses; a word of every constructor, written from
spec/opcode_table.json, decoded; single steps whose expected results are rows of
spec/95_test_vectors.md and spec/96_test_vectors_2.md (the row's number stands in the name); and, for
each obligation with hypotheses, a witness that meets them. -/

namespace Sys2Proof.Tests

open Sys2Proof.Machine

/-! ## Well-formedness: ill-formed terms and what is refused -/

/-- An odd word register: in each position of a word register. -/
theorem test_wf_refuses_odd_word_registers :
    ([.addErnErm 1#4 2#4, .addErnErm 2#4 1#4, .cmpErnErm 15#4 0#4, .movErnErm 0#4 3#4,
      .addErnImm7 5#4 0#7, .movErnImm7 7#4 0#7, .lErnEa 1#4, .lErnErm 2#4 3#4, .lErnErm 3#4 2#4,
      .lRnErm 0#4 1#4, .lRnDisp16Erm 0#4 9#4 0#16, .lErnDisp6Bp 1#4 0#6, .stErnDadr 1#4 0#16,
      .stRnErm 0#4 1#4, .movElrErm 1#4, .movErnElr 1#4, .movErnSp 1#4, .movSpErm 1#4, .pushErn 1#4,
      .popErn 1#4, .movCernEa 1#4, .movEaCerm 1#4, .leaErm 1#4, .leaDisp16Erm 1#4 0#16, .bErn 1#4,
      .blErn 1#4, .mulErnRm 1#4 0#4, .divErnRm 1#4 0#4] : List Instr).all (fun i => !i.wf) = true := by
  decide

/-- A double word register that is no multiple of 4. -/
theorem test_wf_refuses_double_registers :
    ([.lXrnEa 2#4, .lXrnEaInc 1#4, .stXrnEa 6#4, .stXrnEaInc 14#4, .pushXrn 2#4, .popXrn 3#4,
      .movCxrnEa 2#4, .movCxrnEaInc 5#4, .movEaCxrm 2#4, .movEaIncCxrm 10#4] : List Instr).all
      (fun i => !i.wf) = true := by
  decide

/-- A quad word register that is neither 0 nor 8. -/
theorem test_wf_refuses_quad_registers :
    ([.lQrnEa 4#4, .lQrnEaInc 2#4, .stQrnEa 12#4, .stQrnEaInc 1#4, .pushQrn 4#4, .popQrn 12#4,
      .movCqrnEa 4#4, .movCqrnEaInc 9#4, .movEaCqrm 4#4, .movEaIncCqrm 12#4] : List Instr).all
      (fun i => !i.wf) = true := by
  decide

theorem test_wf_admits_the_highest_registers :
    ([.addErnErm 14#4 14#4, .lXrnEa 12#4, .lQrnEa 8#4, .pushRn 15#4, .mulErnRm 14#4 15#4] :
      List Instr).all (fun i => i.wf) = true := by
  decide

/-! ## Decoding: one word of every row of spec/opcode_table.json, bit by bit -/

/-- The two words decode to the instruction. -/
def decodesTo (x : Word × Word × Instr) : Bool := decodeWords x.1 x.2.1 == some x.2.2

theorem test_decode_arithmetic : ([
    (0b1000110101100001#16, 0x0000#16, .addRnRm 0b1101#4 0b0110#4),
    (0b0001110110110101#16, 0x0000#16, .addRnImm8 0b1101#4 0b10110101#8),
    (0b1000110101100000#16, 0x0000#16, .movRnRm 0b1101#4 0b0110#4),
    (0b0000110110110101#16, 0x0000#16, .movRnImm8 0b1101#4 0b10110101#8),
    (0b1000110101100110#16, 0x0000#16, .addcRnRm 0b1101#4 0b0110#4),
    (0b0110110110110101#16, 0x0000#16, .addcRnImm8 0b1101#4 0b10110101#8),
    (0b1000110101100111#16, 0x0000#16, .cmpRnRm 0b1101#4 0b0110#4),
    (0b0111110110110101#16, 0x0000#16, .cmpRnImm8 0b1101#4 0b10110101#8),
    (0b1000110101100101#16, 0x0000#16, .cmpcRnRm 0b1101#4 0b0110#4),
    (0b0101110110110101#16, 0x0000#16, .cmpcRnImm8 0b1101#4 0b10110101#8),
    (0b1000110101100010#16, 0x0000#16, .andRnRm 0b1101#4 0b0110#4),
    (0b0010110110110101#16, 0x0000#16, .andRnImm8 0b1101#4 0b10110101#8),
    (0b1000110101100011#16, 0x0000#16, .orRnRm 0b1101#4 0b0110#4),
    (0b0011110110110101#16, 0x0000#16, .orRnImm8 0b1101#4 0b10110101#8),
    (0b1000110101100100#16, 0x0000#16, .xorRnRm 0b1101#4 0b0110#4),
    (0b0100110110110101#16, 0x0000#16, .xorRnImm8 0b1101#4 0b10110101#8),
    (0b1000110101101000#16, 0x0000#16, .subRnRm 0b1101#4 0b0110#4),
    (0b1000110101101001#16, 0x0000#16, .subcRnRm 0b1101#4 0b0110#4),
    (0b1111011010100101#16, 0x0000#16, .movErnErm 0b0110#4 0b1010#4),
    (0b1110011001011001#16, 0x0000#16, .movErnImm7 0b0110#4 0b1011001#7),
    (0b1111011010100110#16, 0x0000#16, .addErnErm 0b0110#4 0b1010#4),
    (0b1110011011011001#16, 0x0000#16, .addErnImm7 0b0110#4 0b1011001#7),
    (0b1111011010100111#16, 0x0000#16, .cmpErnErm 0b0110#4 0b1010#4)] : List (Word × Word × Instr)).all decodesTo = true := by decide

theorem test_decode_shift : ([
    (0b1000110101101010#16, 0x0000#16, .sllRnRm 0b1101#4 0b0110#4),
    (0b1001110101011010#16, 0x0000#16, .sllRnWidth 0b1101#4 0b101#3),
    (0b1000110101101011#16, 0x0000#16, .sllcRnRm 0b1101#4 0b0110#4),
    (0b1001110101011011#16, 0x0000#16, .sllcRnWidth 0b1101#4 0b101#3),
    (0b1000110101101110#16, 0x0000#16, .sraRnRm 0b1101#4 0b0110#4),
    (0b1001110101011110#16, 0x0000#16, .sraRnWidth 0b1101#4 0b101#3),
    (0b1000110101101100#16, 0x0000#16, .srlRnRm 0b1101#4 0b0110#4),
    (0b1001110101011100#16, 0x0000#16, .srlRnWidth 0b1101#4 0b101#3),
    (0b1000110101101101#16, 0x0000#16, .srlcRnRm 0b1101#4 0b0110#4),
    (0b1001110101011101#16, 0x0000#16, .srlcRnWidth 0b1101#4 0b101#3)] : List (Word × Word × Instr)).all decodesTo = true := by decide

theorem test_decode_prefix : ([
    (0b1110001110110101#16, 0x0000#16, .dsrPrefixSeg 0b10110101#8),
    (0b1001000010111111#16, 0x0000#16, .dsrPrefixRd 0b1011#4),
    (0b1111111010011111#16, 0x0000#16, .dsrPrefixDsr)] : List (Word × Word × Instr)).all decodesTo = true := by decide

theorem test_decode_load : ([
    (0b1001011000110010#16, 0x0000#16, .lErnEa 0b0110#4),
    (0b1001011001010010#16, 0x0000#16, .lErnEaInc 0b0110#4),
    (0b1001011010100010#16, 0x0000#16, .lErnErm 0b0110#4 0b1010#4),
    (0b1010011010101000#16, 0x9ABC#16, .lErnDisp16Erm 0b0110#4 0b1010#4 0x9ABC#16),
    (0b1011011000101101#16, 0x0000#16, .lErnDisp6Bp 0b0110#4 0b101101#6),
    (0b1011011001101101#16, 0x0000#16, .lErnDisp6Fp 0b0110#4 0b101101#6),
    (0b1001011000010010#16, 0x8001#16, .lErnDadr 0b0110#4 0x8001#16),
    (0b1001110100110000#16, 0x0000#16, .lRnEa 0b1101#4),
    (0b1001110101010000#16, 0x0000#16, .lRnEaInc 0b1101#4),
    (0b1001110110100000#16, 0x0000#16, .lRnErm 0b1101#4 0b1010#4),
    (0b1001110110101000#16, 0x9ABC#16, .lRnDisp16Erm 0b1101#4 0b1010#4 0x9ABC#16),
    (0b1101110100101101#16, 0x0000#16, .lRnDisp6Bp 0b1101#4 0b101101#6),
    (0b1101110101101101#16, 0x0000#16, .lRnDisp6Fp 0b1101#4 0b101101#6),
    (0b1001110100010000#16, 0x8001#16, .lRnDadr 0b1101#4 0x8001#16),
    (0b1001010000110100#16, 0x0000#16, .lXrnEa 0b0100#4),
    (0b1001010001010100#16, 0x0000#16, .lXrnEaInc 0b0100#4),
    (0b1001100000110110#16, 0x0000#16, .lQrnEa 0b1000#4),
    (0b1001100001010110#16, 0x0000#16, .lQrnEaInc 0b1000#4)] : List (Word × Word × Instr)).all decodesTo = true := by decide

theorem test_decode_store : ([
    (0b1001011000110011#16, 0x0000#16, .stErnEa 0b0110#4),
    (0b1001011001010011#16, 0x0000#16, .stErnEaInc 0b0110#4),
    (0b1001011010100011#16, 0x0000#16, .stErnErm 0b0110#4 0b1010#4),
    (0b1010011010101001#16, 0x9ABC#16, .stErnDisp16Erm 0b0110#4 0b1010#4 0x9ABC#16),
    (0b1011011010101101#16, 0x0000#16, .stErnDisp6Bp 0b0110#4 0b101101#6),
    (0b1011011011101101#16, 0x0000#16, .stErnDisp6Fp 0b0110#4 0b101101#6),
    (0b1001011000010011#16, 0x8001#16, .stErnDadr 0b0110#4 0x8001#16),
    (0b1001110100110001#16, 0x0000#16, .stRnEa 0b1101#4),
    (0b1001110101010001#16, 0x0000#16, .stRnEaInc 0b1101#4),
    (0b1001110110100001#16, 0x0000#16, .stRnErm 0b1101#4 0b1010#4),
    (0b1001110110101001#16, 0x9ABC#16, .stRnDisp16Erm 0b1101#4 0b1010#4 0x9ABC#16),
    (0b1101110110101101#16, 0x0000#16, .stRnDisp6Bp 0b1101#4 0b101101#6),
    (0b1101110111101101#16, 0x0000#16, .stRnDisp6Fp 0b1101#4 0b101101#6),
    (0b1001110100010001#16, 0x8001#16, .stRnDadr 0b1101#4 0x8001#16),
    (0b1001010000110101#16, 0x0000#16, .stXrnEa 0b0100#4),
    (0b1001010001010101#16, 0x0000#16, .stXrnEaInc 0b0100#4),
    (0b1001100000110111#16, 0x0000#16, .stQrnEa 0b1000#4),
    (0b1001100001010111#16, 0x0000#16, .stQrnEaInc 0b1000#4)] : List (Word × Word × Instr)).all decodesTo = true := by decide

theorem test_decode_control_register : ([
    (0b1110000110110101#16, 0x0000#16, .addSpSigned8 0b10110101#8),
    (0b1010000001101111#16, 0x0000#16, .movEcsrRm 0b0110#4),
    (0b1010101000001101#16, 0x0000#16, .movElrErm 0b1010#4),
    (0b1010000001101100#16, 0x0000#16, .movEpswRm 0b0110#4),
    (0b1010011000000101#16, 0x0000#16, .movErnElr 0b0110#4),
    (0b1010011000011010#16, 0x0000#16, .movErnSp 0b0110#4),
    (0b1010000001101011#16, 0x0000#16, .movPswRm 0b0110#4),
    (0b1110100110110101#16, 0x0000#16, .movPswUnsigned8 0b10110101#8),
    (0b1010110100000111#16, 0x0000#16, .movRnEcsr 0b1101#4),
    (0b1010110100000100#16, 0x0000#16, .movRnEpsw 0b1101#4),
    (0b1010110100000011#16, 0x0000#16, .movRnPsw 0b1101#4),
    (0b1010000110101010#16, 0x0000#16, .movSpErm 0b1010#4)] : List (Word × Word × Instr)).all decodesTo = true := by decide

theorem test_decode_push : ([
    (0b1111110101001110#16, 0x0000#16, .pushRn 0b1101#4),
    (0b1111011001011110#16, 0x0000#16, .pushErn 0b0110#4),
    (0b1111010001101110#16, 0x0000#16, .pushXrn 0b0100#4),
    (0b1111100001111110#16, 0x0000#16, .pushQrn 0b1000#4),
    (0b1111000111001110#16, 0x0000#16, .pushEa),
    (0b1111001011001110#16, 0x0000#16, .pushElr),
    (0b1111001111001110#16, 0x0000#16, .pushElrEa),
    (0b1111010011001110#16, 0x0000#16, .pushEpsw),
    (0b1111010111001110#16, 0x0000#16, .pushEpswEa),
    (0b1111011011001110#16, 0x0000#16, .pushElrEpsw),
    (0b1111011111001110#16, 0x0000#16, .pushElrEpswEa),
    (0b1111100011001110#16, 0x0000#16, .pushLr),
    (0b1111100111001110#16, 0x0000#16, .pushLrEa),
    (0b1111101011001110#16, 0x0000#16, .pushElrLr),
    (0b1111101111001110#16, 0x0000#16, .pushElrLrEa),
    (0b1111110011001110#16, 0x0000#16, .pushEpswLr),
    (0b1111110111001110#16, 0x0000#16, .pushEpswLrEa),
    (0b1111111011001110#16, 0x0000#16, .pushElrEpswLr),
    (0b1111111111001110#16, 0x0000#16, .pushElrEpswLrEa)] : List (Word × Word × Instr)).all decodesTo = true := by decide

theorem test_decode_pop : ([
    (0b1111000110001110#16, 0x0000#16, .popEa),
    (0b1111001010001110#16, 0x0000#16, .popPc),
    (0b1111001110001110#16, 0x0000#16, .popEaPc),
    (0b1111010010001110#16, 0x0000#16, .popPsw),
    (0b1111010110001110#16, 0x0000#16, .popEaPsw),
    (0b1111011010001110#16, 0x0000#16, .popPswPc),
    (0b1111011110001110#16, 0x0000#16, .popEaPswPc),
    (0b1111100010001110#16, 0x0000#16, .popLr),
    (0b1111100110001110#16, 0x0000#16, .popEaLr),
    (0b1111101010001110#16, 0x0000#16, .popLrPc),
    (0b1111101110001110#16, 0x0000#16, .popEaLrPc),
    (0b1111110010001110#16, 0x0000#16, .popLrPsw),
    (0b1111110110001110#16, 0x0000#16, .popEaLrPsw),
    (0b1111111010001110#16, 0x0000#16, .popLrPswPc),
    (0b1111111110001110#16, 0x0000#16, .popEaLrPswPc),
    (0b1111110100001110#16, 0x0000#16, .popRn 0b1101#4),
    (0b1111011000011110#16, 0x0000#16, .popErn 0b0110#4),
    (0b1111010000101110#16, 0x0000#16, .popXrn 0b0100#4),
    (0b1111100000111110#16, 0x0000#16, .popQrn 0b1000#4)] : List (Word × Word × Instr)).all decodesTo = true := by decide

theorem test_decode_coprocessor : ([
    (0b1010110101101110#16, 0x0000#16, .movCrnRm 0b1101#4 0b0110#4),
    (0b1010110101100110#16, 0x0000#16, .movRnCrm 0b1101#4 0b0110#4),
    (0b1111110100001101#16, 0x0000#16, .movCrnEa 0b1101#4),
    (0b1111110100011101#16, 0x0000#16, .movCrnEaInc 0b1101#4),
    (0b1111011000101101#16, 0x0000#16, .movCernEa 0b0110#4),
    (0b1111011000111101#16, 0x0000#16, .movCernEaInc 0b0110#4),
    (0b1111010001001101#16, 0x0000#16, .movCxrnEa 0b0100#4),
    (0b1111010001011101#16, 0x0000#16, .movCxrnEaInc 0b0100#4),
    (0b1111100001101101#16, 0x0000#16, .movCqrnEa 0b1000#4),
    (0b1111100001111101#16, 0x0000#16, .movCqrnEaInc 0b1000#4),
    (0b1111011010001101#16, 0x0000#16, .movEaCrm 0b0110#4),
    (0b1111011010011101#16, 0x0000#16, .movEaIncCrm 0b0110#4),
    (0b1111101010101101#16, 0x0000#16, .movEaCerm 0b1010#4),
    (0b1111101010111101#16, 0x0000#16, .movEaIncCerm 0b1010#4),
    (0b1111110011001101#16, 0x0000#16, .movEaCxrm 0b1100#4),
    (0b1111110011011101#16, 0x0000#16, .movEaIncCxrm 0b1100#4),
    (0b1111100011101101#16, 0x0000#16, .movEaCqrm 0b1000#4),
    (0b1111100011111101#16, 0x0000#16, .movEaIncCqrm 0b1000#4)] : List (Word × Word × Instr)).all decodesTo = true := by decide

theorem test_decode_lea_alu_bit_psw : ([
    (0b1111000010101010#16, 0x0000#16, .leaErm 0b1010#4),
    (0b1111000010101011#16, 0x9ABC#16, .leaDisp16Erm 0b1010#4 0x9ABC#16),
    (0b1111000000001100#16, 0x8001#16, .leaDadr 0x8001#16),
    (0b1000110100011111#16, 0x0000#16, .daaRn 0b1101#4),
    (0b1000110100111111#16, 0x0000#16, .dasRn 0b1101#4),
    (0b1000110101011111#16, 0x0000#16, .negRn 0b1101#4),
    (0b1010110101010000#16, 0x0000#16, .sbRnBit 0b1101#4 0b101#3),
    (0b1010000011010000#16, 0x8001#16, .sbDbitadr 0b101#3 0x8001#16),
    (0b1010110101010010#16, 0x0000#16, .rbRnBit 0b1101#4 0b101#3),
    (0b1010000011010010#16, 0x8001#16, .rbDbitadr 0b101#3 0x8001#16),
    (0b1010110101010001#16, 0x0000#16, .tbRnBit 0b1101#4 0b101#3),
    (0b1010000011010001#16, 0x8001#16, .tbDbitadr 0b101#3 0x8001#16),
    (0b1110110100001000#16, 0x0000#16, .ei),
    (0b1110101111110111#16, 0x0000#16, .di),
    (0b1110110110000000#16, 0x0000#16, .sc),
    (0b1110101101111111#16, 0x0000#16, .rc),
    (0b1111111011001111#16, 0x0000#16, .cplc)] : List (Word × Word × Instr)).all decodesTo = true := by decide

theorem test_decode_conditional_branch : ([
    (0b1100000010110101#16, 0x0000#16, .bge 0b10110101#8),
    (0b1100000110110101#16, 0x0000#16, .blt 0b10110101#8),
    (0b1100001010110101#16, 0x0000#16, .bgt 0b10110101#8),
    (0b1100001110110101#16, 0x0000#16, .ble 0b10110101#8),
    (0b1100010010110101#16, 0x0000#16, .bges 0b10110101#8),
    (0b1100010110110101#16, 0x0000#16, .blts 0b10110101#8),
    (0b1100011010110101#16, 0x0000#16, .bgts 0b10110101#8),
    (0b1100011110110101#16, 0x0000#16, .bles 0b10110101#8),
    (0b1100100010110101#16, 0x0000#16, .bne 0b10110101#8),
    (0b1100100110110101#16, 0x0000#16, .beq 0b10110101#8),
    (0b1100101010110101#16, 0x0000#16, .bnv 0b10110101#8),
    (0b1100101110110101#16, 0x0000#16, .bov 0b10110101#8),
    (0b1100110010110101#16, 0x0000#16, .bps 0b10110101#8),
    (0b1100110110110101#16, 0x0000#16, .bns 0b10110101#8),
    (0b1100111010110101#16, 0x0000#16, .bal 0b10110101#8)] : List (Word × Word × Instr)).all decodesTo = true := by decide

theorem test_decode_extbw_swi_branch : ([
    (0b1000000100001111#16, 0x0000#16, .extbwEr0),
    (0b1000001100101111#16, 0x0000#16, .extbwEr2),
    (0b1000010101001111#16, 0x0000#16, .extbwEr4),
    (0b1000011101101111#16, 0x0000#16, .extbwEr6),
    (0b1000100110001111#16, 0x0000#16, .extbwEr8),
    (0b1000101110101111#16, 0x0000#16, .extbwEr10),
    (0b1000110111001111#16, 0x0000#16, .extbwEr12),
    (0b1000111111101111#16, 0x0000#16, .extbwEr14),
    (0b1110010100101101#16, 0x0000#16, .swi 0b101101#6),
    (0b1111111111111111#16, 0x0000#16, .brk),
    (0b1111100100000000#16, 0x2340#16, .bCadr 0b1001#4 0x2340#16),
    (0b1111000001100010#16, 0x0000#16, .bErn 0b0110#4),
    (0b1111100100000001#16, 0x2340#16, .blCadr 0b1001#4 0x2340#16),
    (0b1111000001100011#16, 0x0000#16, .blErn 0b0110#4)] : List (Word × Word × Instr)).all decodesTo = true := by decide

theorem test_decode_muldiv_misc : ([
    (0b1111011001100100#16, 0x0000#16, .mulErnRm 0b0110#4 0b0110#4),
    (0b1111011001101001#16, 0x0000#16, .divErnRm 0b0110#4 0b0110#4),
    (0b1111111000101111#16, 0x0000#16, .incEa),
    (0b1111111000111111#16, 0x0000#16, .decEa),
    (0b1111111000011111#16, 0x0000#16, .rt),
    (0b1111111000001111#16, 0x0000#16, .rti),
    (0b1111111010001111#16, 0x0000#16, .nop)] : List (Word × Word × Instr)).all decodesTo = true := by decide

theorem test_decode_bytes_are_little_endian :
    decode [0x28#8, 0xA0#8, 0x01#8, 0x80#8, 0xFF#8] =
      .ok (.lErnDisp16Erm 0#4 2#4 0x8001#16, [0xFF#8]) := by decide

theorem test_decode_refuses_by_name :
    decode [0x08#8, 0xF0#8] = .error (.unlisted 0xF008#16) ∧
      (decode [0x12#8, 0x90#8] = .error .truncated) ∧ decode [0x12#8] = .error .truncated := by decide

theorem test_decodeTableWord_reads_the_second_word_high :
    decodeTableWord 32 0x8001A028 = some (.lErnDisp16Erm 0#4 2#4 0x8001#16) ∧
      decodeTableWord 16 0xA028 = some (.lErnDisp16Erm 0#4 2#4 0x0000#16) := by decide

/-! ## Single steps -/

/-- A state outside `int_block` with this PSW and these byte registers; PC 0100H, SP 9000H, EA 8000H,
and the bytes 11H, 22H, ..., 99H from 0:8000H on, as the rows of spec/95_test_vectors.md have them. -/
def at100 (psw : Byte) (rs : List (RegNo × Byte)) : State :=
  rs.foldl (fun s x => s.setR x.1 x.2)
    { State.reset with
      psw := psw, pc := 0x0100#16, intBlock := false, sp := 0x9000#16, ea := 0x8000#16
      data := [(0x8000, 0x11#8), (0x8001, 0x22#8), (0x8002, 0x33#8), (0x8003, 0x44#8),
        (0x8004, 0x55#8), (0x8005, 0x66#8), (0x8006, 0x77#8), (0x8007, 0x88#8), (0x8008, 0x99#8)]
      code := [(0x0004, 0x08#8), (0x0005, 0x04#8), (0x0008, 0x02#8), (0x0009, 0x04#8),
        (0x000A, 0x04#8), (0x000B, 0x05#8), (0x0084, 0x06#8), (0x0085, 0x03#8)] }

/-- `x` goes on to a state with `p`. -/
def gives (x : Res State) (p : State → Bool) : Bool :=
  match x with
  | .next t => p t
  | .fault _ => false
  | .refused _ => false

/-- The byte at an address of data segment 0 is `v`. -/
def byteAt (s : State) (off : Word) (v : Byte) : Bool :=
  match s.readByte 0x00#8 off with
  | .next b => b == v
  | .fault _ => false
  | .refused _ => false

/-- `x` stops with this refusal. -/
def refuses (x : Res State) (why : Refusal) : Bool :=
  match x with
  | .next _ => false
  | .fault _ => false
  | .refused e => e == why

/-- `x` stops with this fault. -/
def faults (x : Res State) (why : Fault) : Bool :=
  match x with
  | .next _ => false
  | .fault e => e == why
  | .refused _ => false

theorem test_T22_add :
    gives (exec (.addRnRm 0#4 0#4) (at100 0x00#8 [(0#4, 0x80#8)]))
      (fun t => t.r 0#4 == 0x00#8 && t.psw == 0xD0#8) = true := by decide

theorem test_T25_add_imm8 :
    gives (exec (.addRnImm8 15#4 0x7F#8) (at100 0x00#8 [(15#4, 0x7F#8)]))
      (fun t => t.r 15#4 == 0xFE#8 && t.psw == 0x34#8) = true := by decide

theorem test_T28_mov_imm8 :
    gives (exec (.movRnImm8 15#4 0x80#8) (at100 0x00#8 []))
      (fun t => t.r 15#4 == 0x80#8 && t.psw == 0x20#8) = true := by decide

theorem test_T31_addc :
    gives (exec (.addcRnRm 1#4 3#4) (at100 0x80#8 [(1#4, 0xFF#8)]))
      (fun t => t.r 1#4 == 0x00#8 && t.psw == 0x84#8) = true := by decide

theorem test_T34_cmp :
    gives (exec (.cmpRnRm 0#4 1#4) (at100 0x00#8 [(0#4, 0x10#8), (1#4, 0x20#8)]))
      (fun t => t.r 0#4 == 0x10#8 && t.psw == 0xA0#8) = true := by decide

theorem test_T40_cmpc_imm8 :
    gives (exec (.cmpcRnImm8 1#4 0x12#8) (at100 0x40#8 [(1#4, 0x12#8)]))
      (fun t => t.psw == 0x40#8) = true := by decide

theorem test_T43_and_imm8 :
    gives (exec (.andRnImm8 0#4 0xAA#8) (at100 0x00#8 [(0#4, 0x55#8)]))
      (fun t => t.r 0#4 == 0x00#8 && t.psw == 0x40#8) = true := by decide

theorem test_T46_xor :
    gives (exec (.xorRnRm 3#4 3#4) (at100 0x00#8 [(3#4, 0xA5#8)]))
      (fun t => t.r 3#4 == 0x00#8 && t.psw == 0x40#8) = true := by decide

theorem test_T49_sub :
    gives (exec (.subRnRm 0#4 1#4) (at100 0x00#8 [(0#4, 0x80#8), (1#4, 0x01#8)]))
      (fun t => t.r 0#4 == 0x7F#8 && t.psw == 0x14#8) = true := by decide

theorem test_T52_subc :
    gives (exec (.subcRnRm 0#4 1#4) (at100 0x80#8 [(0#4, 0x10#8), (1#4, 0x0F#8)]))
      (fun t => t.r 0#4 == 0x00#8 && t.psw == 0x04#8) = true := by decide

theorem test_T55_mov_imm7 :
    gives (exec (.movErnImm7 2#4 0x7F#7) (at100 0x00#8 []))
      (fun t => t.er 2#4 == 0xFFFF#16 && t.psw == 0x20#8) = true := by decide

theorem test_T58_add_imm7 :
    gives (exec (.addErnImm7 0#4 0x7F#7) (at100 0x00#8 [(0#4, 0x01#8)]))
      (fun t => t.er 0#4 == 0x0000#16 && t.psw == 0xC4#8) = true := by decide

theorem test_T61_cmp_word :
    gives (exec (.cmpErnErm 0#4 2#4) (at100 0x00#8 [(1#4, 0x10#8), (3#4, 0x20#8)]))
      (fun t => t.psw == 0xA0#8) = true := by decide

theorem test_T64_sll :
    gives (exec (.sllRnRm 0#4 5#4) (at100 0x00#8 [(0#4, 0x78#8), (5#4, 0x0C#8)]))
      (fun t => t.r 0#4 == 0x80#8 && t.psw == 0x80#8) = true := by decide

theorem test_T67_sll_width :
    gives (exec (.sllRnWidth 1#4 7#3) (at100 0x00#8 [(1#4, 0x03#8)]))
      (fun t => t.r 1#4 == 0x80#8 && t.psw == 0x80#8) = true := by decide

theorem test_T70_sllc_width :
    gives (exec (.sllcRnWidth 1#4 1#3) (at100 0x00#8 [(1#4, 0x01#8), (0#4, 0x80#8)]))
      (fun t => t.r 1#4 == 0x03#8 && t.psw == 0x00#8) = true := by decide

theorem test_T73_sra :
    gives (exec (.sraRnRm 0#4 1#4) (at100 0x00#8 [(0#4, 0x85#8), (1#4, 0x02#8)]))
      (fun t => t.r 0#4 == 0xE1#8 && t.psw == 0x00#8) = true := by decide

theorem test_T79_srlc_width :
    gives (exec (.srlcRnWidth 0#4 1#3) (at100 0x00#8 [(0#4, 0x02#8), (1#4, 0x01#8)]))
      (fun t => t.r 0#4 == 0x81#8 && t.psw == 0x00#8) = true := by decide

theorem test_T85_load_word_odd_ea :
    gives (exec (.lErnEaInc 2#4) { at100 0x00#8 [] with ea := 0x8001#16 })
      (fun t => t.er 2#4 == 0x2211#16 && t.ea == 0x8002#16) = true := by decide

theorem test_T88_load_word_disp16 :
    gives (exec (.lErnDisp16Erm 0#4 2#4 0x0001#16) (at100 0x00#8 [(2#4, 0x03#8), (3#4, 0x80#8)]))
      (fun t => t.er 0#4 == 0x6655#16 && t.pc == 0x0104#16) = true := by decide

theorem test_T91_load_word_disp6_bp :
    gives (exec (.lErnDisp6Bp 0#4 0x3E#6) (at100 0x00#8 [(12#4, 0x04#8), (13#4, 0x80#8)]))
      (fun t => t.er 0#4 == 0x4433#16) = true := by decide

theorem test_T94_load_word_direct :
    gives (exec (.lErnDadr 0#4 0x8007#16) (at100 0x00#8 []))
      (fun t => t.er 0#4 == 0x8877#16 && t.psw == 0x20#8) = true := by decide

theorem test_T97_load_byte :
    gives (exec (.lRnErm 1#4 2#4) (at100 0x00#8 [(2#4, 0x01#8), (3#4, 0x80#8)]))
      (fun t => t.r 1#4 == 0x22#8) = true := by decide

theorem test_T100_load_byte_disp6_fp :
    gives (exec (.lRnDisp6Fp 1#4 0x3F#6) (at100 0x00#8 [(14#4, 0x01#8), (15#4, 0x80#8)]))
      (fun t => t.r 1#4 == 0x11#8) = true := by decide

theorem test_T103_load_double :
    gives (exec (.lXrnEaInc 4#4) { at100 0x00#8 [] with ea := 0x8003#16 })
      (fun t => t.r 4#4 == 0x33#8 && t.r 7#4 == 0x66#8 && t.ea == 0x8006#16) = true := by decide

theorem test_T107_store_word :
    gives (exec (.stErnEa 0#4) { at100 0x00#8 [(0#4, 0xEF#8), (1#4, 0xBE#8)] with ea := 0x8010#16 })
      (fun t => byteAt t 0x8010#16 0xEF#8 && byteAt t 0x8011#16 0xBE#8) = true := by decide

theorem test_T113_store_keeps_flags :
    gives (exec (.stErnDadr 0#4 0x8030#16) (at100 0xF4#8 [(0#4, 0x34#8), (1#4, 0x12#8)]))
      (fun t => byteAt t 0x8031#16 0x12#8 && t.psw == 0xF4#8) = true := by decide

theorem test_T119_store_byte_disp6_fp :
    gives (exec (.stRnDisp6Fp 5#4 0x1F#6) (at100 0x00#8 [(5#4, 0x5A#8), (15#4, 0x80#8)]))
      (fun t => byteAt t 0x801F#16 0x5A#8) = true := by decide

theorem test_T122_store_double :
    gives (exec (.stXrnEaInc 0#4) { at100 0x00#8 [(0#4, 0x11#8), (1#4, 0x22#8), (2#4, 0x33#8), (3#4, 0x44#8)] with ea := 0x8050#16 })
      (fun t => byteAt t 0x8053#16 0x44#8 && t.ea == 0x8054#16) = true := by decide

theorem test_T137_add_sp :
    gives (exec (.addSpSigned8 0x7F#8) { at100 0x00#8 [] with sp := 0xFFFE#16 })
      (fun t => t.sp == 0x007D#16) = true := by decide

theorem test_T142_mov_elr :
    gives (exec (.movElrErm 2#4) (at100 0x02#8 [(2#4, 0x35#8), (3#4, 0x12#8)]))
      (fun t => t.elr2 == 0x1234#16) = true := by decide

theorem test_T145_mov_epsw_level_zero :
    gives (exec (.movEpswRm 0#4) (at100 0x00#8 [(0#4, 0xFF#8)]))
      (fun t => t.psw == 0x00#8 && t.epsw1 == 0x00#8) = true := by decide

theorem test_T155_mov_psw :
    gives (exec (.movPswUnsigned8 0xF4#8) (at100 0x00#8 []))
      (fun t => t.psw == 0xF4#8) = true := by decide

theorem test_T162_push_byte :
    gives (exec (.pushRn 0#4) (at100 0x00#8 [(0#4, 0x5A#8)]))
      (fun t => t.sp == 0x8FFE#16) = true := by decide

theorem test_T165_push_quad :
    gives (exec (.pushQrn 8#4) (at100 0x00#8 [(8#4, 0x11#8), (15#4, 0x88#8)]))
      (fun t => t.sp == 0x8FF8#16 && byteAt t 0x8FF8#16 0x11#8 && byteAt t 0x8FFF#16 0x88#8) = true := by decide

theorem test_T176_pop_byte :
    gives (exec (.popRn 1#4) { at100 0x20#8 [] with sp := 0x8000#16 })
      (fun t => t.r 1#4 == 0x11#8 && t.sp == 0x8002#16 && t.psw == 0x20#8) = true := by decide

theorem test_pop_list_large :
    gives (exec (.popEaLrPswPc) { at100 0x01#8 [] with sp := 0x8000#16 })
      (fun t => t.ea == 0x2211#16 && t.lr == 0x4432#16 && t.lcsr == 0x5#4 && t.psw == 0x77#8) = true := by decide

theorem test_T200_coprocessor_load :
    gives (exec (.movCernEa 2#4) { at100 0x00#8 [] with ea := 0x8003#16 })
      (fun t => t.cr 2#4 == 0x33#8 && t.cr 3#4 == 0x44#8) = true := by decide

theorem test_T216_lea_wraps :
    gives (exec (.leaDisp16Erm 0#4 0x0004#16) (at100 0x00#8 [(0#4, 0xFE#8), (1#4, 0xFF#8)]))
      (fun t => t.ea == 0x0002#16) = true := by decide

theorem test_T222_daa :
    gives (exec (.daaRn 0#4) (at100 0x00#8 [(0#4, 0x0A#8)]))
      (fun t => t.r 0#4 == 0x10#8 && t.psw == 0x04#8) = true := by decide

theorem test_T225_daa_non_decimal :
    gives (exec (.daaRn 0#4) (at100 0x84#8 [(0#4, 0xFF#8)]))
      (fun t => t.r 0#4 == 0x65#8 && t.psw == 0x84#8) = true := by decide

theorem test_T231_neg :
    gives (exec (.negRn 0#4) (at100 0x00#8 [(0#4, 0x01#8)]))
      (fun t => t.r 0#4 == 0xFF#8 && t.psw == 0xA4#8) = true := by decide

theorem test_T240_rb :
    gives (exec (.rbRnBit 1#4 0#3) (at100 0x00#8 [(1#4, 0xFE#8)]))
      (fun t => t.r 1#4 == 0xFE#8 && t.psw == 0x40#8) = true := by decide

theorem test_sb_memory :
    gives (exec (.sbDbitadr 7#3 0x8000#16) (at100 0x00#8 []))
      (fun t => byteAt t 0x8000#16 0x91#8 && t.psw == 0x40#8) = true := by decide

theorem test_T251_rc :
    gives (exec (.rc) (at100 0xC8#8 []))
      (fun t => t.psw == 0x48#8) = true := by decide

theorem test_T257_bal_forward :
    gives (exec (.bal 0x7F#8) (at100 0x00#8 []))
      (fun t => t.pc == 0x0200#16) = true := by decide

theorem test_T272_bges :
    gives (exec (.bges 0x10#8) (at100 0x20#8 []))
      (fun t => t.pc == 0x0102#16) = true := by decide

theorem test_T275_blts :
    gives (exec (.blts 0x10#8) (at100 0x10#8 []))
      (fun t => t.pc == 0x0122#16) = true := by decide

theorem test_T278_bgts :
    gives (exec (.bgts 0x10#8) (at100 0x40#8 []))
      (fun t => t.pc == 0x0102#16) = true := by decide

theorem test_T299_extbw :
    gives (exec (.extbwEr14) (at100 0x00#8 [(14#4, 0x7F#8), (15#4, 0xFF#8)]))
      (fun t => t.r 15#4 == 0x00#8 && t.psw == 0x00#8) = true := by decide

theorem test_T303_swi :
    gives (exec (.swi 2#6) (at100 0x0A#8 []))
      (fun t => t.elr1 == 0x0102#16 && t.epsw1 == 0x0A#8 && t.psw == 0x01#8 && t.pc == 0x0306#16 && t.intBlock) = true := by decide

theorem test_T310_branch_clears_bit_zero :
    gives (exec (.bErn 4#4) (at100 0x00#8 [(4#4, 0x35#8), (5#4, 0x12#8)]))
      (fun t => t.pc == 0x1234#16) = true := by decide

theorem test_bl_saves_both_halves :
    gives (exec (.blCadr 5#4 0x0300#16) { at100 0x00#8 [] with csr := 3#4 })
      (fun t => t.lr == 0x0104#16 && t.lcsr == 3#4 && t.csr == 5#4) = true := by decide

theorem test_T316_mul :
    gives (exec (.mulErnRm 0#4 2#4) (at100 0x00#8 [(0#4, 0x0C#8), (1#4, 0xEE#8), (2#4, 0x0B#8)]))
      (fun t => t.er 0#4 == 0x0084#16 && t.psw == 0x00#8) = true := by decide

theorem test_T319_mul_same :
    gives (exec (.mulErnRm 0#4 0#4) (at100 0x00#8 [(0#4, 0x10#8)]))
      (fun t => t.er 0#4 == 0x0100#16) = true := by decide

theorem test_T322_div :
    gives (exec (.divErnRm 0#4 2#4) (at100 0x00#8 [(0#4, 0xFF#8), (1#4, 0xFF#8), (2#4, 0x01#8)]))
      (fun t => t.er 0#4 == 0xFFFF#16 && t.r 2#4 == 0x00#8 && t.psw == 0x00#8) = true := by decide

theorem test_inc_byte :
    gives (exec (.incEa) { at100 0x80#8 [] with ea := 0x8006#16 })
      (fun t => byteAt t 0x8006#16 0x78#8 && t.psw == 0x80#8) = true := by decide

theorem test_rti_level_one :
    gives (exec (.rti) { at100 0x01#8 [] with elr1 := 0x0400#16, epsw1 := 0x08#8, ecsr1 := 0x7#4 })
      (fun t => t.psw == 0x08#8 && t.pc == 0x0400#16 && t.csr == 0x7#4) = true := by decide

theorem test_T325_div_overlap : refuses (exec (.divErnRm 0#4 1#4) (at100 0x00#8 [])) .divOverlap = true := by
  decide

theorem test_T337_rti_level_zero : refuses (exec .rti (at100 0x00#8 [])) .rtiAtLevelZero = true := by decide

theorem test_T190_odd_stack_pointer :
    refuses (exec (.pushErn 0#4) { at100 0x00#8 [] with sp := 0x8FFF#16 }) .oddStackPointer = true := by
  decide

theorem test_T156_mov_psw_clears_mie :
    refuses (exec (.movPswUnsigned8 0x00#8) (at100 0x08#8 [])) .movPswClearsMie = true := by decide

/-! ## Interrupts and the step -/

/-- T343, in the LARGE model: a non-maskable request at ELEVEL 0. -/
theorem test_T343_nmi :
    gives (step { at100 0xC8#8 [] with inputs := [⟨false, false, true, none⟩], csr := 0x2#4 })
      (fun t => t.elr2 == 0x0100#16 && t.epsw2 == 0xC8#8 && t.psw == 0xCA#8 && t.pc == 0x0402#16 &&
        t.ecsr2 == 0x2#4 && t.csr == 0x0#4 && t.intBlock) = true := by decide

theorem test_T348_mi :
    gives (step { at100 0x88#8 [] with inputs := [⟨false, false, false, some 0⟩] })
      (fun t => t.elr1 == 0x0100#16 && t.epsw1 == 0x88#8 && t.psw == 0x81#8 && t.pc == 0x0504#16) =
      true := by decide

/-- A request waits while `int_block` is set: the instruction (0000H, MOV R0,#0) runs. -/
theorem test_blocked_request_waits :
    gives (step { at100 0x08#8 [] with inputs := [⟨false, false, true, none⟩], intBlock := true })
      (fun t => t.pc == 0x0102#16 && t.psw == 0x48#8 && !t.intBlock) = true := by decide

/-- The next step runs the instruction withFetchWord places. -/
theorem test_withFetchWord :
    gives (step (State.reset.withFetchWord 32 0x8001A028))
      (fun t => t.pc == 0x0004#16 && t.psw == 0x40#8) = true ∧
    refuses (step (State.reset.withFetchWord 16 0xFE0F)) .rtiAtLevelZero = true := by decide

/-! ## Witnesses: concrete states and operands that meet every hypothesis of an obligation -/

/-- In the product of `State.reset` every data address is RAM outside the window. -/
theorem ram_everything (s : State) (h : s.cfg = Config.everything) (g : Byte) (o : Word) :
    dataPlace s.cfg g o = .ram := by
  have hle : flatAddr g o ≤ 16777215 := by
    have := flatAddr_lt g o
    omega
  have hw : inRomWindow s.cfg g o = false := by
    have : ¬ (0x0001#16 ≤ o ∧ o ≤ 0x0000#16) := by
      rintro ⟨h1, h2⟩
      have h1 := BitVec.le_def.mp h1
      have h2 := BitVec.le_def.mp h2
      simp only [BitVec.toNat_ofNat] at h1 h2
      omega
    rw [not_and_or] at this
    rcases this with e | e <;> simp [inRomWindow, h, Config.everything, e]
  rw [dataPlace, hw]
  simp [dataKind, h, Config.everything, hle]

theorem writable_everything (s : State) (h : s.cfg = Config.everything) (g : Byte) (o : Word) :
    Writable s g o := .inl (ram_everything s h g o)

/-- The bytes `at100` has from 0:8000H on. -/
def bytes8000 (k : Nat) : Byte :=
  [0x11#8, 0x22#8, 0x33#8, 0x44#8, 0x55#8, 0x66#8, 0x77#8, 0x88#8].getD k 0x00#8

/-- `at100` in the SMALL model, without the level-3 registers. -/
def small100 (psw : Byte) (rs : List (RegNo × Byte)) : State :=
  { at100 psw rs with cfg := { Config.everything with model := .small, hasLevel3 := false } }

/-- `at100` with two code words at PC. -/
def withWords (lo1 hi1 lo2 hi2 : Byte) : State :=
  { at100 0x00#8 [] with code := [(0x0100, lo1), (0x0101, hi1), (0x0102, lo2), (0x0103, hi2)] }

/-- A product with a ROM window, a ROM region, a device and a hole. -/
def mapped : State :=
  { at100 0x00#8 [] with
    cfg := { Config.everything with
      romWinHi := 0x0FFF#16
      dataMap := [⟨0x1000, 0x1FFF, .rom⟩, ⟨0x2000, 0x2FFF, .device 5⟩, ⟨0x8000, 0x8FFF, .ram⟩] } }

theorem test_witness_DecodingAnEncodedInstructionGivesItBack :
    ([.lErnDisp16Erm 14#4 14#4 0xFFFF#16, .lQrnEaInc 8#4, .popXrn 12#4, .swi 63#6, .bal 0x80#8,
      .addErnImm7 0#4 0x40#7, .blCadr 15#4 0x0000#16] : List Instr).all (fun i => i.wf) = true := by
  decide

theorem test_witness_DecodedWordsEncodeBackToThemselves :
    decodeWords 0xAEE8#16 0xFFFF#16 = some (.lErnDisp16Erm 14#4 14#4 0xFFFF#16) ∧
      decodeWords 0x0000#16 0xFFFF#16 = some (.movRnImm8 0#4 0x00#8) := by decide

/-- With one word, outside `int_block`; and with two words, a masked request standing by. -/
theorem test_witness_StepRunsTheDecodedInstruction :
    (RunsInstruction (withWords 0x8F#8 0xFE#8 0x00#8 0x00#8) ∧ Instr.nop.wf = true ∧
      (withWords 0x8F#8 0xFE#8 0x00#8 0x00#8).codeRead16 0x0#4 0x0100#16 = .next 0xFE8F#16 ∧
      encode .nop = [0xFE8F#16]) ∧
    RunsInstruction { withWords 0x0C#8 0xF0#8 0xFF#8 0xFF#8 with
      inputs := [⟨false, false, false, some 58⟩] } ∧
    (withWords 0x0C#8 0xF0#8 0xFF#8 0xFF#8).codeRead16 0x0#4 0x0100#16 = .next 0xF00C#16 ∧
    (withWords 0x0C#8 0xF0#8 0xFF#8 0xFF#8).codeRead16 0x0#4 (0x0100#16 + 2#16) = .next 0xFFFF#16 ∧
    encode (.leaDadr 0xFFFF#16) = [0xF00C#16, 0xFFFF#16] :=
  ⟨⟨⟨rfl, .inr (by decide)⟩, by decide, rfl, by decide⟩, ⟨rfl, .inr (by decide)⟩, rfl, rfl, by decide⟩

theorem test_witness_UnlistedFirstWordStopsTheStep :
    RunsInstruction (withWords 0x08#8 0xF0#8 0x00#8 0x00#8) ∧
      (withWords 0x08#8 0xF0#8 0x00#8 0x00#8).codeRead16 0x0#4 0x0100#16 = .next 0xF008#16 ∧
      refuses (step (withWords 0x08#8 0xF0#8 0x00#8 0x00#8)) (.unlistedEncoding 0xF008#16) = true :=
  ⟨⟨rfl, .inr (by decide)⟩, rfl, by decide⟩

theorem inv_at100 : Inv (at100 0xFF#8 []) := by
  constructor <;> decide

theorem test_witness_StepKeepsTheInvariant :
    Inv (at100 0xFF#8 []) ∧ gives (step (at100 0xFF#8 [])) (fun _ => true) = true :=
  ⟨inv_at100, by decide⟩

theorem test_witness_ResetInputPerformsTheResetSequence :
    State.presented { at100 0xFF#8 [] with inputs := [⟨true, true, true, some 0⟩] } =
        ⟨true, true, true, some 0⟩ ∧
      (at100 0xFF#8 []).codeRead16 0x0#4 0x0000#16 = .next 0x0000#16 ∧
      (at100 0xFF#8 []).codeRead16 0x0#4 0x0002#16 = .next 0x0000#16 :=
  ⟨by decide, rfl, rfl⟩

/-- A non-maskable request at the highest ELEVEL that takes it, MIE clear. -/
theorem test_witness_NonMaskableRequestIsAccepted :
    State.presented { at100 0x02#8 [] with inputs := [⟨false, false, true, some 58⟩] } =
        ⟨false, false, true, some 58⟩ ∧
      (at100 0x02#8 []).intBlock = false ∧ elevel (at100 0x02#8 []).psw ≤ 2#2 ∧
      (at100 0x02#8 []).codeRead16 0x0#4 0x0008#16 = .next 0x0402#16 :=
  ⟨by decide, by decide, by decide, rfl⟩

/-- The first and the last maskable vector, at the highest ELEVEL that takes them. -/
theorem test_witness_MaskableRequestIsAccepted :
    State.presented { at100 0x09#8 [] with inputs := [⟨false, false, false, some 58⟩] } =
        ⟨false, false, false, some 58⟩ ∧
      getFlag (at100 0x09#8 []).psw .mie = true ∧ elevel (at100 0x09#8 []).psw ≤ 1#2 ∧
      (at100 0x09#8 []).eiWindow = 0 ∧ (at100 0x09#8 []).intBlock = false ∧
      (at100 0x09#8 []).codeRead16 0x0#4 (BitVec.ofNat 16 (0x000A + 2 * 0)) = .next 0x0504#16 ∧
      (at100 0x09#8 []).codeRead16 0x0#4 (BitVec.ofNat 16 (0x000A + 2 * 58)) = .next 0x0000#16 :=
  ⟨by decide, by decide, by decide, by decide, by decide, rfl, rfl⟩

/-- Both clauses: a product without and one with level 3, at ELEVEL 3. -/
theorem test_witness_EmulatorRequestIsAcceptedOrStops :
    State.presented { at100 0x03#8 [] with inputs := [⟨false, true, true, some 0⟩] } =
        ⟨false, true, true, some 0⟩ ∧
      (at100 0x03#8 []).intBlock = false ∧ (small100 0x03#8 []).cfg.hasLevel3 = false ∧
      (at100 0x03#8 []).cfg.hasLevel3 = true ∧
      (at100 0x03#8 []).codeRead16 0x0#4 0x0006#16 = .next 0x0000#16 :=
  ⟨by decide, by decide, by decide, by decide, rfl⟩

/-- Each clause: blocked, at ELEVEL 3, at ELEVEL 2, with MIE clear. -/
theorem test_witness_BlockedAndMaskedRequestsWait :
    State.reset.intBlock = true ∧ elevel (at100 0x03#8 []).psw = 3#2 ∧
      2#2 ≤ elevel (at100 0x0A#8 []).psw ∧ getFlag (at100 0x00#8 []).psw .mie = false := by decide

theorem test_witness_AcceptanceIsOptionalInTheWindowAfterEi :
    gives (exec .ei (at100 0x01#8 [])) (fun t => t.eiWindow == 2 && t.psw == 0x09#8) = true ∧
      State.presented { at100 0x09#8 [] with inputs := [⟨false, false, false, some 0⟩], eiWindow := 1 } =
        ⟨false, false, false, some 0⟩ ∧
      (at100 0x09#8 []).intBlock = false ∧ getFlag (at100 0x09#8 []).psw .mie = true ∧
      elevel (at100 0x09#8 []).psw ≤ 1#2 := by decide

/-- Each form, at operands that carry. -/
theorem test_witness_ByteAdditionAddsAndSetsEveryFlag :
    let s := at100 0xC0#8 [(0#4, 0xFF#8), (15#4, 0xFF#8)]
    (0xFF#8 = s.r 15#4) ∧ getFlag s.psw .c = true ∧ getFlag s.psw .z = true ∧
      gives (exec (.addRnRm 0#4 15#4) s) (fun t => t.r 0#4 == 0xFE#8) = true ∧
      gives (exec (.addRnImm8 0#4 0xFF#8) s) (fun t => t.r 0#4 == 0xFE#8) = true ∧
      gives (exec (.addcRnRm 0#4 15#4) s) (fun t => t.r 0#4 == 0xFF#8) = true ∧
      gives (exec (.addcRnImm8 0#4 0x00#8) s) (fun t => t.r 0#4 == 0x00#8 && t.psw == 0xC4#8) = true := by
  decide

/-- Each form, at operands that borrow. -/
theorem test_witness_ByteSubtractionSubtractsAndSetsEveryFlag :
    let s := at100 0xC0#8 [(15#4, 0x01#8)]
    (0x01#8 = s.r 15#4) ∧ getFlag s.psw .c = true ∧ getFlag s.psw .z = true ∧
      gives (exec (.subRnRm 0#4 15#4) s) (fun t => t.r 0#4 == 0xFF#8 && t.psw == 0xA4#8) = true ∧
      gives (exec (.cmpRnRm 0#4 15#4) s) (fun t => t.r 0#4 == 0x00#8 && t.psw == 0xA4#8) = true ∧
      gives (exec (.cmpRnImm8 0#4 0x01#8) s) (fun t => t.psw == 0xA4#8) = true ∧
      gives (exec (.subcRnRm 15#4 0#4) s) (fun t => t.r 15#4 == 0x00#8 && t.psw == 0x40#8) = true ∧
      gives (exec (.cmpcRnRm 15#4 0#4) s) (fun t => t.psw == 0x40#8) = true ∧
      gives (exec (.cmpcRnImm8 0#4 0xFF#8) s) (fun t => t.psw == 0xC4#8) = true ∧
      gives (exec (.negRn 15#4) s) (fun t => t.r 15#4 == 0xFF#8) = true := by decide

/-- Each form. -/
theorem test_witness_ByteMovesAndLogicSetOnlyZAndS :
    let s := at100 0xFF#8 [(0#4, 0xF0#8), (15#4, 0x3C#8)]
    gives (exec (.movRnRm 0#4 15#4) s) (fun t => t.r 0#4 == s.r 15#4) = true ∧
      gives (exec (.movRnImm8 0#4 0x00#8) s) (fun t => t.r 0#4 == 0x00#8 && t.psw == 0xDF#8) = true ∧
      gives (exec (.andRnRm 0#4 15#4) s) (fun t => t.r 0#4 == 0x30#8) = true ∧
      gives (exec (.andRnImm8 0#4 0x0F#8) s) (fun t => t.r 0#4 == 0x00#8) = true ∧
      gives (exec (.orRnRm 0#4 15#4) s) (fun t => t.r 0#4 == 0xFC#8) = true ∧
      gives (exec (.orRnImm8 0#4 0x0F#8) s) (fun t => t.r 0#4 == 0xFF#8) = true ∧
      gives (exec (.xorRnRm 0#4 15#4) s) (fun t => t.r 0#4 == 0xCC#8) = true ∧
      gives (exec (.xorRnImm8 0#4 0xF0#8) s) (fun t => t.r 0#4 == 0x00#8) = true := by decide

/-- The two forms; the immediate at its lowest value. -/
theorem test_witness_WordAdditionAddsAndSetsEveryFlag :
    let s := at100 0x00#8 [(14#4, 0x00#8), (15#4, 0x80#8)]
    isWordReg 14#4 = true ∧ s.er 14#4 = 0x8000#16 ∧ (0xFFC0#16).toInt = (0x40#7).toInt ∧
      gives (exec (.addErnErm 14#4 14#4) s) (fun t => t.er 14#4 == 0x0000#16) = true ∧
      gives (exec (.addErnImm7 14#4 0x40#7) s) (fun t => t.er 14#4 == 0x7FC0#16) = true := by decide

/-- The two forms; the immediate at its highest value. -/
theorem test_witness_WordMovesSetOnlyZAndS :
    isWordReg 14#4 = true ∧ (0x003F#16).toInt = (0x3F#7).toInt ∧
      gives (exec (.movErnErm 0#4 14#4) (at100 0x00#8 [(15#4, 0x80#8)]))
        (fun t => t.er 0#4 == 0x8000#16) = true ∧
      gives (exec (.movErnImm7 0#4 0x3F#7) (at100 0x00#8 [])) (fun t => t.er 0#4 == 0x003F#16) =
        true := by decide

/-- Each form: the unsigned and the signed order differ. -/
theorem test_witness_ConditionsAfterCompareMeanTheirNames :
    let s := at100 0x00#8 [(0#4, 0x80#8), (1#4, 0x80#8), (2#4, 0x7F#8), (3#4, 0x7F#8)]
    gives (exec (.cmpRnRm 0#4 2#4) s) (fun t => Cond.gt.holds t.psw && Cond.lts.holds t.psw) = true ∧
      gives (exec (.cmpRnImm8 0#4 0x7F#8) s)
        (fun t => Cond.ge.holds t.psw && Cond.les.holds t.psw) = true ∧
      gives (exec (.cmpErnErm 0#4 2#4) s)
        (fun t => Cond.gt.holds t.psw && Cond.lts.holds t.psw) = true := by decide

/-- Every form, with a count of 0 and of 7; a count register above 7. -/
theorem test_witness_LogicalShiftsMoveBitsThroughC :
    let s := at100 0x80#8 [(0#4, 0xC3#8), (1#4, 0xFF#8), (2#4, 0x08#8)]
    7 = (s.r 1#4).toNat % 8 ∧ 0 = (s.r 2#4).toNat % 8 ∧
      gives (exec (.sllRnRm 0#4 1#4) s) (fun t => t.r 0#4 == 0x80#8 && getFlag t.psw .c) = true ∧
      gives (exec (.srlRnRm 0#4 1#4) s) (fun t => t.r 0#4 == 0x01#8 && getFlag t.psw .c) = true ∧
      gives (exec (.sllRnRm 0#4 2#4) s) (fun t => t.r 0#4 == 0xC3#8 && getFlag t.psw .c) = true ∧
      gives (exec (.sllRnWidth 0#4 0#3) s) (fun t => t.r 0#4 == 0xC3#8 && getFlag t.psw .c) = true ∧
      gives (exec (.srlRnWidth 0#4 7#3) s) (fun t => t.r 0#4 == 0x01#8) = true := by decide

/-- Every form; R15 below R0 and R0 above R15. -/
theorem test_witness_ContinuedShiftsTakeBitsFromTheNeighbour :
    let s := at100 0x00#8 [(0#4, 0x81#8), (1#4, 0x07#8), (15#4, 0xFE#8)]
    7 = (s.r 1#4).toNat % 8 ∧
      gives (exec (.sllcRnRm 0#4 1#4) s) (fun t => t.r 0#4 == 0xFF#8 && !getFlag t.psw .c) = true ∧
      gives (exec (.srlcRnRm 15#4 1#4) s) (fun t => t.r 15#4 == 0x03#8 && getFlag t.psw .c) = true ∧
      gives (exec (.sllcRnWidth 0#4 0#3) s) (fun t => t.r 0#4 == 0x81#8) = true ∧
      gives (exec (.srlcRnWidth 15#4 1#3) s) (fun t => t.r 15#4 == 0xFF#8 && !getFlag t.psw .c) = true := by
  decide

theorem test_witness_ArithmeticShiftDividesTheSignedValue :
    let s := at100 0x80#8 [(0#4, 0x80#8), (1#4, 0x07#8)]
    7 = (s.r 1#4).toNat % 8 ∧
      gives (exec (.sraRnRm 0#4 1#4) s) (fun t => t.r 0#4 == 0xFF#8 && !getFlag t.psw .c) = true ∧
      gives (exec (.sraRnWidth 0#4 0#3) s) (fun t => t.r 0#4 == 0x80#8 && getFlag t.psw .c) = true := by
  decide

/-- The three prefix words; the latch clear and set. -/
theorem test_witness_PrefixWordsSelectTheSegment :
    let s := at100 0x00#8 [(15#4, 0xFF#8)]
    s.dsrPrefix = false ∧ 0xFF#8 = s.r 15#4 ∧
      gives (exec (.dsrPrefixSeg 0xFF#8) s) (fun t => t.dsr == 0xFF#8 && t.dsrPrefix) = true ∧
      gives (exec (.dsrPrefixRd 15#4) s) (fun t => t.dsr == 0xFF#8 && t.intBlock) = true ∧
      gives (exec .dsrPrefixDsr s) (fun t => t.dsr == 0x00#8 && t.dsrPrefix) = true ∧
      refuses (exec .dsrPrefixDsr { s with dsrPrefix := true }) .prefixAfterPrefix = true := by decide

/-- A state with the data of `at100` in RAM reads it. -/
theorem reads_at100 (s : State) (order : List Nat) (h : ∀ k ∈ order, k < 8)
    (hd : s.data = (at100 0x00#8 []).data)
    (hw : ∀ k < 8, dataPlace s.cfg 0x00#8 (0x8000#16 + BitVec.ofNat 16 k) = .ram) :
    ReadsBytes s 0x00#8 0x8000#16 bytes8000 order := by
  have hr : ∀ k < 8, (at100 0x00#8 []).data.read (flatAddr 0x00#8 (0x8000#16 + BitVec.ofNat 16 k)) =
      bytes8000 k := by decide
  exact readsBytes_of_ram fun k hk => ⟨hw k (h k hk), by rw [hd, hr k (h k hk)]⟩

/-- The same in the product of `State.reset`. -/
theorem reads_everything (s : State) (order : List Nat) (h : ∀ k ∈ order, k < 8)
    (hd : s.data = (at100 0x00#8 []).data) (hc : s.cfg = Config.everything) :
    ReadsBytes s 0x00#8 0x8000#16 bytes8000 order :=
  reads_at100 s order h hd fun _ _ => ram_everything s hc _ _

/-- What a device of `mapped` at `base` gives to the k-th of two reads: it has seen the first when it
gives the second. -/
def deviceBytes (base : Nat) (k : Nat) : Byte :=
  if k = 0 then Config.deviceRead 5 [] base else Config.deviceRead 5 [.read base] (base + 1)

/-- A form of each size; the last word of a device region. -/
theorem test_witness_LoadsReadMemoryIntoRegisters :
    loadAccess (.lQrnEaInc 8#4) (at100 0x00#8 []) = some ⟨8#4, 8, 0x8000#16, 0x8008#16, 1⟩ ∧
      ReadsBytes (at100 0x00#8 []) 0x00#8 (alignedTo 8 0x8000#16) bytes8000 (List.range 8) ∧
      loadAccess (.lErnDadr 14#4 0x8001#16) (at100 0x00#8 []) =
        some ⟨14#4, 2, 0x8001#16, 0x8000#16, 2⟩ ∧
      ReadsBytes (at100 0x00#8 []) 0x00#8 (alignedTo 2 0x8001#16) bytes8000 (List.range 2) ∧
      ReadsBytes mapped 0x00#8 (alignedTo 2 0x2FFF#16) (deviceBytes 0x2FFE) (List.range 2) ∧
      loadAccess (.lRnDisp6Bp 15#4 0x20#6) (at100 0x00#8 [(12#4, 0x20#8), (13#4, 0x80#8)]) =
        some ⟨15#4, 1, 0x8000#16, 0x8000#16, 1⟩ :=
  ⟨by decide, reads_everything _ _ (by decide) rfl rfl, by decide,
    reads_everything _ _ (by decide) rfl rfl, ⟨rfl, rfl, trivial⟩, by decide⟩

/-- A quad word at the top of a segment; the first and the last byte of a device region. -/
theorem test_witness_StoresWriteRegistersToMemory :
    storeAccess (.stQrnEa 8#4) { at100 0x00#8 [] with ea := 0xFFFF#16 } =
        some ⟨8#4, 8, 0xFFFF#16, 0xFFFF#16, 1⟩ ∧
      WritableRange { at100 0x00#8 [] with ea := 0xFFFF#16 } 0x00#8 (alignedTo 8 0xFFFF#16) 8 ∧
      storeAccess (.stRnDadr 15#4 0xFFFF#16) (at100 0x00#8 []) =
        some ⟨15#4, 1, 0xFFFF#16, 0x8000#16, 2⟩ ∧
      WritableRange { at100 0x00#8 [] with dsrPrefix := true, dsr := 0xFF#8 } 0xFF#8 0xFFFF#16 1 ∧
      Writable mapped 0x00#8 0x2000#16 ∧ Writable mapped 0x00#8 0x2FFF#16 :=
  ⟨by decide, fun _ _ => writable_everything _ rfl _ _, by decide,
    fun _ _ => writable_everything _ rfl _ _, .inr (by decide), .inr (by decide)⟩

/-- The first half: each kind of address at the first and last address of its region. -/
theorem test_witness_ByteAccessesStopWhereTheMapSays :
    (InWindow mapped 0x00#8 0x0001#16 ∧ InWindow mapped 0x00#8 0x0FFF#16 ∧
      codePresent mapped.cfg 0x0FFF = true) ∧
    ¬InWindow mapped 0x00#8 0x1000#16 ∧ ¬InWindow mapped 0x01#8 0x0001#16 ∧
    dataKind mapped.cfg 0x1000 = some .rom ∧ dataKind mapped.cfg 0x1FFF = some .rom ∧
    dataKind mapped.cfg 0x2000 = some (.device 5) ∧ dataKind mapped.cfg 0x2FFF = some (.device 5) ∧
    dataKind mapped.cfg 0x8000 = some .ram ∧ dataKind mapped.cfg 0x8FFF = some .ram := by decide

/-- The second half: stops of each name, at the first byte that stops, in every family; a device and the
bytes beside a stop go on. -/
theorem test_accesses_stop_at_their_first_forbidden_byte :
    refuses (exec (.stRnDadr 0#4 0x0FFF#16) mapped) (.romWindowWrite 0x0FFF) = true ∧
    refuses (exec (.stErnDadr 0#4 0x1FFF#16) mapped) (.romWrite 0x1FFE) = true ∧
    refuses (exec (.movEaCxrm 0#4) { mapped with ea := 0x0FFE#16 }) (.romWindowWrite 0x0FFE) = true ∧
    faults (exec (.lQrnEa 0#4) { mapped with ea := 0x8FFA#16 }) (.unimplementedData 0x9000) = true ∧
    faults (exec (.movCxrnEa 0#4) { mapped with ea := 0x2FFE#16 }) (.unimplementedData 0x3000) = true ∧
    faults (exec (.stXrnEa 0#4) { mapped with ea := 0x8FFE#16 }) (.unimplementedData 0x9000) = true ∧
    refuses (exec (.sbDbitadr 7#3 0x1000#16) mapped) (.romWrite 0x1000) = true ∧
    faults (exec (.tbDbitadr 7#3 0x3000#16) mapped) (.unimplementedData 0x3000) = true ∧
    refuses (exec .incEa { mapped with ea := 0x0001#16 }) (.romWindowWrite 0x0001) = true ∧
    faults (exec (.pushRn 0#4) { mapped with sp := 0x8000#16 }) (.unimplementedData 0x7FFF) = true ∧
    faults (exec (.popQrn 0#4) { mapped with sp := 0x8FFE#16 }) (.unimplementedData 0x9000) = true ∧
    faults (exec .popPc { mapped with sp := 0x8FFE#16 }) (.unimplementedData 0x9000) = true ∧
    refuses (exec .pushLrEa { mapped with sp := 0x2002#16 }) (.romWrite 0x1FFE) = true := by decide

/-- The second half, each kind of form: up to the last byte of a region it goes on, across ROM and a
device, too. -/
theorem test_witness_accesses_go_on_up_to_the_last_byte :
    (loadAccess (.lQrnEa 8#4) { mapped with ea := 0x1FFC#16 }).isSome = true ∧
    gives (exec (.lQrnEa 8#4) { mapped with ea := 0x1FFC#16 })
      (fun t => t.deviceLog.length == 4) = true ∧
    (coLoadAccess (.movCxrnEa 12#4) { mapped with ea := 0x8FFC#16 }).isSome = true ∧
    gives (exec (.movCxrnEa 12#4) { mapped with ea := 0x8FFC#16 }) (fun _ => true) = true ∧
    (storeAccess (.stXrnEa 12#4) { mapped with ea := 0x8FFC#16 }).isSome = true ∧
    gives (exec (.stXrnEa 12#4) { mapped with ea := 0x8FFC#16 }) (fun _ => true) = true ∧
    (coStoreAccess (.movEaCqrm 8#4) { mapped with ea := 0x2000#16 }).isSome = true ∧
    gives (exec (.movEaCqrm 8#4) { mapped with ea := 0x2000#16 })
      (fun t => t.deviceLog.length == 8) = true ∧
    (mapped.dsrPrefix = false ∧ (0x8008#16).getLsbD 0 = false ∧ elevel mapped.psw = 0#2) ∧
    pushRegOf (.pushQrn 8#4) = some (8#4, 8) ∧
    gives (exec (.pushQrn 8#4) { mapped with sp := 0x8008#16 }) (fun _ => true) = true ∧
    pushListOf .pushElrEpsw = some ⟨false, true, true, false⟩ ∧
    elevel (0x02#8) = Bank.two.level ∧
    gives (exec .pushElrEpsw { mapped with sp := 0x8006#16, psw := 0x02#8 }) (fun _ => true) = true ∧
    popRegOf (.popRn 15#4) = some (15#4, 1) ∧
    gives (exec (.popRn 15#4) { mapped with sp := 0x8FFE#16 }) (fun _ => true) = true ∧
    popListOf .popPc = some ⟨false, false, true, false⟩ ∧
    gives (exec .popPc { mapped with sp := 0x8FFC#16 }) (fun _ => true) = true := by decide

/-! ## Devices (spec/20_memory.md R65, R70): what they see, each byte once and in order -/

theorem test_R70_one_access_a_byte_in_ascending_order :
    gives (exec (.lErnDadr 0#4 0x2001#16) mapped)
      (fun t => t.deviceLog == [.read 0x2000, .read 0x2001]) = true ∧
    gives (exec (.stErnDadr 0#4 0x2FFE#16) { mapped with regs := (at100 0x00#8 [(1#4, 0xAB#8)]).regs })
      (fun t => t.deviceLog == [.write 0x2FFE 0x00#8, .write 0x2FFF 0xAB#8] && t.data == mapped.data) =
      true := by decide

theorem test_R70_read_modify_write_and_test :
    gives (exec (.tbDbitadr 0#3 0x2000#16) mapped) (fun t => t.deviceLog == [.read 0x2000]) = true ∧
    gives (exec .incEa { mapped with ea := 0x2000#16 })
      (fun t => t.deviceLog.map (fun e => e matches .write _ _) == [false, true]) = true := by decide

/-- The byte a device gives is what its behaviour says after all it has seen. -/
theorem test_device_value_reaches_the_register :
    (nextState? (exec (.lRnDadr 3#4 0x2004#16) { mapped with deviceLog := [.write 0x2000 0x01#8] })).map
      (fun t => t.r 3#4) = some (Config.deviceRead 5 [.write 0x2000 0x01#8] 0x2004) := rfl

theorem test_witness_StackPointerInstructionsUseAllSixteenBits :
    isWordReg 14#4 = true ∧
      gives (exec (.addSpSigned8 0x80#8) (at100 0x00#8 [])) (fun t => t.sp == 0x8F80#16) = true ∧
      gives (exec (.movSpErm 14#4) (at100 0x00#8 [(14#4, 0x01#8)])) (fun t => t.sp == 0x0001#16) = true := by
  decide

/-- Both models at ELEVEL 0. -/
theorem test_witness_BackupMovesAtLevelZeroUseTheLinkRegisters :
    elevel (at100 0xFC#8 []).psw = 0#2 ∧ elevel (small100 0xFC#8 []).psw = 0#2 ∧
      gives (exec (.movEcsrRm 15#4) (at100 0x00#8 [(15#4, 0xFF#8)])) (fun t => t.lcsr == 0xF#4) = true ∧
      gives (exec (.movEcsrRm 15#4) (small100 0x00#8 [(15#4, 0xFF#8)])) (fun t => t.lcsr == 0x0#4) =
        true := by decide

/-- Each level. -/
theorem test_witness_BackupMovesAtALevelUseItsSet :
    elevel (small100 0x01#8 []).psw = Bank.one.level ∧ elevel (at100 0x02#8 []).psw = Bank.two.level ∧
      elevel (at100 0x03#8 []).psw = Bank.three.level ∧ (at100 0x03#8 []).cfg.hasLevel3 = true ∧
      gives (exec (.movElrErm 0#4) (at100 0x03#8 [(0#4, 0xFF#8)])) (fun t => t.elr3 == 0x00FE#16) = true := by
  decide

/-- Each alternative: ELEVEL kept; ELEVEL changed with NOP next; MIE clear, and set on both sides. -/
theorem test_witness_MovPswWritesAllEightBits :
    let s := { at100 0x08#8 [(0#4, 0xF8#8)] with code := [(0x0102, 0x8F#8), (0x0103, 0xFE#8)] }
    elevel (s.r 0#4) = elevel s.psw ∧ getFlag (s.r 0#4) .mie = true ∧
      s.codeRead16 s.codeSeg (s.nextPc 1) = .next 0xFE8F#16 ∧
      gives (exec (.movPswRm 0#4) s) (fun t => t.psw == 0xF8#8) = true ∧
      gives (exec (.movPswUnsigned8 0x0B#8) s) (fun t => t.psw == 0x0B#8) = true :=
  ⟨by decide, by decide, rfl, by decide, by decide⟩

/-- Each clause. -/
theorem test_witness_MovPswStopsOnItsTwoHazards :
    let s := at100 0x08#8 [(0#4, 0x0B#8)]
    elevel (s.r 0#4) ≠ elevel s.psw ∧ s.codeRead16 s.codeSeg (s.nextPc 1) = .next 0x0000#16 ∧
      getFlag s.psw .mie = true ∧ getFlag 0xF4#8 .mie = false ∧ elevel 0xF4#8 = elevel s.psw ∧
      refuses (exec (.movPswRm 0#4) s) .movPswWithoutNop = true ∧
      refuses (exec (.movPswUnsigned8 0xF4#8) s) .movPswClearsMie = true :=
  ⟨by decide, rfl, by decide, by decide, by decide, by decide, by decide⟩

theorem test_witness_LevelThreeRegistersAbsentStops :
    let s := small100 0x03#8 []
    elevel s.psw = 3#2 ∧ s.cfg.hasLevel3 = false ∧ s.dsrPrefix = false ∧ s.sp.getLsbD 0 = false ∧
      pushListOf .pushEpswLrEa = some ⟨true, true, false, true⟩ ∧
      refuses (exec .pushEpswLrEa s) .level3Absent = true ∧
      refuses (exec (.movRnEpsw 0#4) s) .level3Absent = true ∧
      refuses (exec .rti s) .level3Absent = true := by decide

/-- SP 0: the frame lies at the top of segment 0. -/
theorem test_witness_PushStoresRegistersBelowTheStackPointer :
    let s := { at100 0x00#8 [] with sp := 0x0000#16 }
    pushRegOf (.pushQrn 8#4) = some (8#4, 8) ∧ pushRegOf (.pushRn 15#4) = some (15#4, 1) ∧
      s.dsrPrefix = false ∧ s.sp.getLsbD 0 = false ∧
      WritableRange s 0x00#8 (s.sp - BitVec.ofNat 16 (stackRoom 8)) (stackRoom 8) ∧
      WritableRange s 0x00#8 (s.sp - BitVec.ofNat 16 (stackRoom 1)) (stackRoom 1) :=
  ⟨by decide, by decide, by decide, by decide, fun _ _ => writable_everything _ rfl _ _,
    fun _ _ => writable_everything _ rfl _ _⟩

theorem test_witness_PopLoadsRegistersFromTheStackPointer :
    let s := { at100 0x00#8 [] with sp := 0x8000#16 }
    popRegOf (.popQrn 8#4) = some (8#4, 8) ∧ popRegOf (.popRn 15#4) = some (15#4, 1) ∧
      s.dsrPrefix = false ∧ s.sp.getLsbD 0 = false ∧ ReadsBytes s 0x00#8 s.sp bytes8000 (List.range 8) ∧
      ReadsBytes s 0x00#8 s.sp bytes8000 (List.range 1) :=
  ⟨by decide, by decide, by decide, by decide, reads_everything _ _ (by decide) rfl rfl,
    reads_everything _ _ (by decide) rfl rfl⟩

/-- The longest list in the LARGE model at ELEVEL 3; EA alone at ELEVEL 0. -/
theorem test_witness_PushListsStoreTheirFramesInOrder :
    let s := at100 0x03#8 []
    pushListOf .pushElrEpswLrEa = some ⟨true, true, true, true⟩ ∧ s.dsrPrefix = false ∧
      s.sp.getLsbD 0 = false ∧ elevel s.psw = Bank.three.level ∧ s.cfg.hasLevel3 = true ∧
      (pushFrame s ⟨true, true, true, true⟩ .three).length = 12 ∧
      WritableRange s 0x00#8 (s.sp - 12#16) 12 ∧
      pushListOf .pushEa = some ⟨false, false, false, true⟩ ∧
      WritableRange (at100 0x00#8 []) 0x00#8 (s.sp - 2#16) 2 :=
  ⟨by decide, by decide, by decide, by decide, by decide, by decide,
    fun _ _ => writable_everything _ rfl _ _, by decide, fun _ _ => writable_everything _ rfl _ _⟩

/-- The longest list in the SMALL model, PC alone in the LARGE model. -/
theorem test_witness_PopListsLoadTheirFramesInOrder :
    popListOf .popEaLrPswPc = some ⟨true, true, true, true⟩ ∧
      popListOrder (small100 0x00#8 []) ⟨true, true, true, true⟩ = [0, 1, 2, 3, 4, 6, 7] ∧
      ReadsBytes { small100 0x00#8 [] with sp := 0x8000#16 } 0x00#8 0x8000#16 bytes8000
        [0, 1, 2, 3, 4, 6, 7] ∧
      popListOf .popPc = some ⟨false, false, true, false⟩ ∧
      popListOrder (at100 0x00#8 []) ⟨false, false, true, false⟩ = [0, 1, 2] ∧
      ReadsBytes { at100 0x00#8 [] with sp := 0x8000#16 } 0x00#8 0x8000#16 bytes8000 [0, 1, 2] :=
  ⟨by decide, by decide, reads_at100 _ _ (by decide) rfl (by decide), by decide, by decide,
    reads_everything _ _ (by decide) rfl rfl⟩

/-- Both halves: a quad word, and ELR and EPSW at ELEVEL 1 in the SMALL model. -/
theorem test_witness_PopUndoesPush :
    pushRegOf (.pushQrn 8#4) = some (8#4, 8) ∧ popRegOf (.popQrn 0#4) = some (0#4, 8) ∧
      gives (exec (.pushQrn 8#4) (at100 0x00#8 [])) (fun t => t.sp == 0x8FF8#16 &&
        (List.range 8).all fun q => !isDevice t.cfg 0x00#8 (t.sp + BitVec.ofNat 16 q)) = true ∧
      elevel (small100 0x01#8 []).psw = Bank.one.level ∧
      gives (exec .pushElrEpsw (small100 0x01#8 [])) (fun t => t.sp == 0x8FFC#16 &&
        (List.range ((⟨false, true, true, false⟩ : StackList).size (small100 0x01#8 []))).all
          fun q => !isDevice t.cfg 0x00#8 (t.sp + BitVec.ofNat 16 q)) = true := by decide

/-- Each clause. -/
theorem test_witness_StackAndReturnStopWhereUndefined :
    usesStack (.popRn 0#4) = true ∧ usesStack .pushElrLrEa = true ∧
      (at100 0x00#8 []).sp.getLsbD 0 = false ∧ elevel (at100 0xFC#8 []).psw = 0#2 ∧
      pushListOf .pushElrLrEa = some ⟨true, false, true, true⟩ ∧
      refuses (exec (.popRn 0#4) { at100 0x00#8 [] with dsrPrefix := true }) .stackAfterPrefix = true ∧
      refuses (exec (.popRn 0#4) { at100 0x00#8 [] with sp := 0xFFFF#16 }) .oddStackPointer = true ∧
      refuses (exec .pushElrLrEa (at100 0xFC#8 [])) .backupAtLevelZero = true := by decide

theorem test_witness_CoprocessorLoadsReadMemory :
    coLoadAccess (.movCqrnEaInc 8#4) (at100 0x00#8 []) = some ⟨8#4, 8, 0x8000#16, 0x8008#16, 1⟩ ∧
      ReadsBytes (at100 0x00#8 []) 0x00#8 (alignedTo 8 0x8000#16) bytes8000 (List.range 8) ∧
      coLoadAccess (.movCrnEa 15#4) (at100 0x00#8 []) = some ⟨15#4, 1, 0x8000#16, 0x8000#16, 1⟩ :=
  ⟨by decide, reads_everything _ _ (by decide) rfl rfl, by decide⟩

theorem test_witness_CoprocessorStoresWriteMemory :
    coStoreAccess (.movEaIncCqrm 8#4) { at100 0x00#8 [] with ea := 0xFFFF#16 } =
        some ⟨8#4, 8, 0xFFFF#16, 0x0006#16, 1⟩ ∧
      WritableRange { at100 0x00#8 [] with ea := 0xFFFF#16 } 0x00#8 (alignedTo 8 0xFFFF#16) 8 ∧
      coStoreAccess (.movEaCrm 15#4) (at100 0x00#8 []) = some ⟨15#4, 1, 0x8000#16, 0x8000#16, 1⟩ :=
  ⟨by decide, fun _ _ => writable_everything _ rfl _ _, by decide⟩

/-- Each form; the sum wraps. -/
theorem test_witness_LeaLoadsTheAddressItself :
    let s := at100 0x00#8 [(14#4, 0xFF#8), (15#4, 0xFF#8)]
    isWordReg 14#4 = true ∧ (0xFFFE#16).toNat = ((s.er 14#4).toNat + (0xFFFF#16).toNat) % 65536 ∧
      gives (exec (.leaErm 14#4) s) (fun t => t.ea == 0xFFFF#16) = true ∧
      gives (exec (.leaDisp16Erm 14#4 0xFFFF#16) s) (fun t => t.ea == 0xFFFE#16) = true ∧
      gives (exec (.leaDadr 0xFFFF#16) s) (fun t => t.ea == 0xFFFF#16 && t.pc == 0x0104#16) = true := by
  decide

/-- Every row of the two tables at a bound of its range: value, C and HC before, adjustment. -/
theorem test_witness_DecimalAdjustmentsFollowTheirTables :
    ([(0x99, false, false, 0x99), (0x8A, false, false, 0x90), (0x9F, false, true, 0xA5),
      (0xA9, false, false, 0x09), (0x9A, false, false, 0x00), (0xA0, false, true, 0x06),
      (0x99, true, false, 0xF9), (0x0A, true, false, 0x70), (0xFF, true, true, 0x65)] :
        List (Nat × Bool × Bool × Nat)).all (fun x =>
      gives (exec (.daaRn 0#4) (at100 (setFlag (setFlag 0x00#8 .c x.2.1) .hc x.2.2.1)
          [(0#4, BitVec.ofNat 8 x.1)]))
        (fun t => t.r 0#4 == BitVec.ofNat 8 x.2.2.2)) = true ∧
    ([(0x99, false, false, 0x99), (0x9A, false, false, 0x94), (0x90, false, true, 0x8A),
      (0xA9, false, false, 0x49), (0xA0, false, true, 0x3A), (0xFF, false, false, 0x99),
      (0x09, true, false, 0xA9), (0x00, true, true, 0x9A), (0x0A, true, false, 0xA4)] :
        List (Nat × Bool × Bool × Nat)).all (fun x =>
      gives (exec (.dasRn 0#4) (at100 (setFlag (setFlag 0x00#8 .c x.2.1) .hc x.2.2.1)
          [(0#4, BitVec.ofNat 8 x.1)]))
        (fun t => t.r 0#4 == BitVec.ofNat 8 x.2.2.2)) = true := by decide

/-- Each form, at the bits 0 and 7. -/
theorem test_witness_RegisterBitInstructionsChangeOneBit :
    let s := at100 0x00#8 [(15#4, 0x7E#8)]
    gives (exec (.sbRnBit 15#4 7#3) s) (fun t => t.r 15#4 == 0xFE#8 && t.psw == 0x40#8) = true ∧
      gives (exec (.rbRnBit 15#4 1#3) s) (fun t => t.r 15#4 == 0x7C#8 && t.psw == 0x00#8) = true ∧
      gives (exec (.tbRnBit 15#4 0#3) s) (fun t => t.r 15#4 == 0x7E#8 && t.psw == 0x40#8) = true := by
  decide

/-- Each form, TB also on a byte that is only readable, and with a prefix. -/
theorem test_witness_MemoryBitInstructionsChangeOneBit :
    Writable (at100 0x00#8 []) 0x00#8 0xFFFF#16 ∧
      byteAt (at100 0x00#8 []) 0xFFFF#16 0x00#8 = true ∧ byteAt mapped 0x1FFF#16 0x00#8 = true ∧
      gives (exec (.sbDbitadr 7#3 0xFFFF#16) { at100 0x00#8 [] with dsrPrefix := true, dsr := 0xFF#8 })
        (fun t => t.psw == 0x40#8) = true ∧
      gives (exec (.rbDbitadr 0#3 0x8000#16) (at100 0x00#8 []))
        (fun t => byteAt t 0x8000#16 0x10#8 && t.psw == 0x00#8) = true ∧
      gives (exec (.tbDbitadr 0#3 0x1FFF#16) mapped) (fun t => t.psw == 0x40#8) = true :=
  ⟨writable_everything _ rfl _ _, by decide, by decide, by decide, by decide, by decide⟩

/-- INC of 7FH and FFH, DEC of 80H and 00H. -/
theorem test_witness_IncAndDecChangeOneByte :
    let s := fun v : Byte => { at100 0x00#8 [] with data := [(0x8000, v)] }
    byteAt (s 0x7F#8) 0x8000#16 0x7F#8 = true ∧ Writable (s 0x7F#8) 0x00#8 0x8000#16 ∧
      gives (exec .incEa (s 0x7F#8)) (fun t => byteAt t 0x8000#16 0x80#8 && t.psw == 0x34#8) = true ∧
      gives (exec .incEa (s 0xFF#8)) (fun t => byteAt t 0x8000#16 0x00#8 && t.psw == 0x44#8) = true ∧
      gives (exec .decEa (s 0x80#8)) (fun t => byteAt t 0x8000#16 0x7F#8 && t.psw == 0x14#8) = true ∧
      gives (exec .decEa { s 0x00#8 with data := [] })
        (fun t => byteAt t 0x8000#16 0xFF#8 && t.psw == 0x24#8) = true :=
  ⟨by decide, writable_everything _ rfl _ _, by decide, by decide, by decide, by decide⟩

/-- Each instruction. -/
theorem test_witness_PswInstructionsChangeOneFlag :
    gives (exec .ei (at100 0x03#8 [])) (fun t => t.psw == 0x0B#8) = true ∧
      gives (exec .di (at100 0xFF#8 [])) (fun t => t.psw == 0xF7#8) = true ∧
      gives (exec .sc (at100 0x03#8 [])) (fun t => t.psw == 0x83#8) = true ∧
      gives (exec .rc (at100 0xFF#8 [])) (fun t => t.psw == 0x7F#8) = true ∧
      gives (exec .cplc (at100 0xFF#8 [])) (fun t => t.psw == 0x7F#8) = true := by decide

/-- Every condition, taken at the lowest field and not taken; a target below 0000H wraps. -/
theorem test_witness_ConditionalBranchesFollowTheConditionTable :
    ([(.bge 0x80#8, 0x00#8, 0x80#8), (.blt 0x80#8, 0x80#8, 0x00#8), (.bgt 0x80#8, 0x00#8, 0x40#8),
      (.ble 0x80#8, 0x40#8, 0x00#8), (.bges 0x80#8, 0x30#8, 0x20#8), (.blts 0x80#8, 0x20#8, 0x30#8),
      (.bgts 0x80#8, 0x00#8, 0x40#8), (.bles 0x80#8, 0x40#8, 0x30#8), (.bne 0x80#8, 0x00#8, 0x40#8),
      (.beq 0x80#8, 0x40#8, 0x00#8), (.bnv 0x80#8, 0x00#8, 0x10#8), (.bov 0x80#8, 0x10#8, 0x00#8),
      (.bps 0x80#8, 0x00#8, 0x20#8), (.bns 0x80#8, 0x20#8, 0x00#8)] :
        List (Instr × Byte × Byte)).all (fun x =>
      gives (exec x.1 (at100 x.2.1 [])) (fun t => t.pc == 0x0002#16) &&
      gives (exec x.1 (at100 x.2.2 [])) (fun t => t.pc == 0x0102#16)) = true ∧
    gives (exec (.bal 0x80#8) { at100 0xFF#8 [] with pc := 0x0000#16 })
      (fun t => t.pc == 0xFF02#16) = true := by decide

/-- The first and the last word register. -/
theorem test_witness_ExtbwExtendsTheSign :
    gives (exec .extbwEr0 (at100 0x00#8 [(0#4, 0x80#8)]))
        (fun t => t.er 0#4 == 0xFF80#16 && t.psw == 0x20#8) = true ∧
      gives (exec .extbwEr14 (at100 0x00#8 [(15#4, 0xFF#8)]))
        (fun t => t.er 14#4 == 0x0000#16 && t.psw == 0x40#8) = true ∧
      decodeWords (packWord 0x8#4 0x3#4 0x0#4 0xF#4) 0x0000#16 = none := by decide

/-- The first and the last vector, in both models. -/
theorem test_witness_SwiTakesTheSoftwareInterrupt :
    (at100 0x00#8 []).codeRead16 0x0#4 (BitVec.ofNat 16 (0x0080 + 2 * (0#6).toNat)) = .next 0x0000#16 ∧
      (small100 0x00#8 []).codeRead16 0x0#4 (BitVec.ofNat 16 (0x0080 + 2 * (63#6).toNat)) =
        .next 0x0000#16 ∧
      (at100 0x00#8 []).cfg.model = .large ∧ (small100 0x00#8 []).cfg.model = .small :=
  ⟨rfl, rfl, rfl, rfl⟩

/-- Both clauses at the levels where they meet. -/
theorem test_witness_BrkTakesItsVectorOrResets :
    elevel (at100 0x01#8 []).psw ≤ 1#2 ∧
      (at100 0x01#8 []).codeRead16 0x0#4 0x0004#16 = .next 0x0408#16 ∧
      2#2 ≤ elevel (at100 0x02#8 []).psw ∧
      (at100 0x02#8 []).codeRead16 0x0#4 0x0000#16 = .next 0x0000#16 ∧
      (at100 0x02#8 []).codeRead16 0x0#4 0x0002#16 = .next 0x0000#16 :=
  ⟨by decide, rfl, by decide, rfl, rfl⟩

theorem test_witness_RtiRestoresTheInterruptedProgram :
    elevel (small100 0x01#8 []).psw = Bank.one.level ∧ elevel (at100 0x02#8 []).psw = Bank.two.level ∧
      elevel (at100 0x03#8 []).psw = Bank.three.level ∧ (at100 0x03#8 []).cfg.hasLevel3 = true := by
  decide

theorem test_witness_RtiUndoesTheEntry :
    Inv (at100 0xFF#8 []) ∧ (at100 0xFF#8 []).hasBank .three = true ∧
      gives (enterException (at100 0xFF#8 []) .three (at100 0xFF#8 []).pc 0x0008#16 true)
        (fun t => t.pc == 0x0402#16) = true :=
  ⟨inv_at100, by decide, by decide⟩

/-- Every clause: a divisor inside the pair, a zero divisor, a zero dividend, a nonzero quotient, and
the lowest quotient with a nonzero dividend. -/
theorem test_witness_DivGivesQuotientAndRemainder :
    refuses (exec (.divErnRm 0#4 0#4) (at100 0x00#8 [])) .divOverlap = true ∧
      refuses (exec (.divErnRm 14#4 15#4) (at100 0x00#8 [])) .divOverlap = true ∧
      gives (exec (.divErnRm 0#4 2#4) (at100 0x00#8 [(0#4, 0x01#8)])) (fun t => t.pc == 0x0102#16) =
        true ∧
      gives (exec (.divErnRm 0#4 2#4) (at100 0x80#8 [(2#4, 0xFF#8)])) (fun t => t.psw == 0x40#8) = true ∧
      gives (exec (.divErnRm 0#4 2#4) (at100 0x80#8 [(0#4, 0xFF#8), (1#4, 0xFF#8), (2#4, 0xFF#8)]))
        (fun t => t.er 0#4 == 0x0101#16 && t.r 2#4 == 0x00#8 && t.psw == 0x00#8) = true ∧
      gives (exec (.divErnRm 0#4 2#4) (at100 0x00#8 [(0#4, 0xFE#8), (2#4, 0xFF#8)]))
        (fun t => t.er 0#4 == 0x0000#16 && t.r 2#4 == 0xFE#8) = true := by decide

/-- CSR and DSR each change in an allowed way. -/
theorem test_witness_OnlyListedInstructionsChangeTheSegments :
    gives (exec (.bCadr 0xF#4 0x0000#16) (at100 0x00#8 [])) (fun t => t.csr == 0xF#4) = true ∧
      gives (exec .popPc { at100 0x00#8 [] with sp := 0x8000#16 }) (fun t => t.csr == 0x3#4) = true ∧
      gives (exec (.dsrPrefixSeg 0xFF#8) (at100 0x00#8 [])) (fun t => t.dsr == 0xFF#8) = true := by decide

theorem test_witness_LatchesAfterAnInstruction :
    gives (exec .dsrPrefixDsr (at100 0x00#8 [])) (fun t => t.dsrPrefix && t.intBlock) = true ∧
      gives (exec (.swi 63#6) { at100 0x00#8 [] with dsrPrefix := true })
        (fun t => !t.dsrPrefix && t.intBlock) = true ∧
      gives (exec .brk (at100 0x03#8 [])) (fun t => !t.dsrPrefix && t.intBlock) = true ∧
      gives (exec .nop State.reset) (fun t => !t.dsrPrefix && !t.intBlock) = true := by decide

end Sys2Proof.Tests
end

section
/-! PROOFS. Decoding a word given by its digits, and fields cut into digits and put together again. -/

namespace Sys2Proof

/-! ## The digits of a packed word -/

theorem packWord_getLsbD (a b c d : Nibble) (i : Nat) :
    (packWord a b c d).getLsbD i =
      if i < 4 then d.getLsbD i else if i < 8 then c.getLsbD (i - 4)
      else if i < 12 then b.getLsbD (i - 8) else a.getLsbD (i - 12) := by
  simp only [packWord, BitVec.getLsbD_append, Nat.sub_sub]
  grind

@[simp] theorem digitA_packWord (a b c d : Nibble) : digitA (packWord a b c d) = a := by
  apply BitVec.eq_of_getLsbD_eq
  intro i hi
  simp [digitA, packWord_getLsbD, hi, show ¬ 12 + i < 4 by omega, show ¬ 12 + i < 8 by omega]

@[simp] theorem digitB_packWord (a b c d : Nibble) : digitB (packWord a b c d) = b := by
  apply BitVec.eq_of_getLsbD_eq
  intro i hi
  simp [digitB, packWord_getLsbD, hi, show ¬ 8 + i < 4 by omega, show 8 + i < 12 by omega]

@[simp] theorem digitC_packWord (a b c d : Nibble) : digitC (packWord a b c d) = c := by
  apply BitVec.eq_of_getLsbD_eq
  intro i hi
  simp [digitC, packWord_getLsbD, hi, show 4 + i < 8 by omega]

@[simp] theorem digitD_packWord (a b c d : Nibble) : digitD (packWord a b c d) = d := by
  apply BitVec.eq_of_getLsbD_eq
  intro i hi
  simp [digitD, packWord_getLsbD, hi]

theorem decodeWords_packWord (a b c d : Nibble) (w2 : Word) :
    decodeWords (packWord a b c d) w2 = decodeDigits a b c d w2 := by
  simp only [decodeWords, digitA_packWord, digitB_packWord, digitC_packWord, digitD_packWord]

/-! ## Fields cut into digits (spec/30_encoding.md R95) -/

@[simp] theorem imm8Field_hiNibble_loNibble (v : Byte) :
    imm8Field (hiNibble v) (loNibble v) = v := by
  revert v
  decide

/-- Digit C of the imm7 format: a function bit over the upper three bits of the immediate. -/
@[simp] theorem imm7Field_cut (f : BitVec 1) (v : BitVec 7) :
    imm7Field (f ++ v.extractLsb' 4 3) (v.extractLsb' 0 4) = v := by
  revert f v
  decide

@[simp] theorem topBit_append (f : BitVec 1) (v : BitVec 3) : topBit (f ++ v) = f.getLsbD 0 := by
  revert f v
  decide

/-! ## The immediate and word-register formats -/

theorem decodeE_of_isWordReg {n : RegNo} (hn : isWordReg n = true) (f : BitVec 1) (v : BitVec 7) :
    decodeE n (f ++ v.extractLsb' 4 3) (v.extractLsb' 0 4) =
      some (if f.getLsbD 0 then .addErnImm7 n v else .movErnImm7 n v) := by
  simp only [decodeE, hn, topBit_append, imm7Field_cut]
  cases f.getLsbD 0 <;> rfl

theorem onlyIf_wordRegs {n m : RegNo} (hn : isWordReg n = true) (hm : isWordReg m = true)
    (i : Instr) : onlyIf (isWordReg n && isWordReg m) i = some i := by
  simp [onlyIf, hn, hm]

end Sys2Proof
end

section
/-! PROOFS. Additions, moves and logic on byte and word registers (spec/40_arithmetic.md). -/

namespace Sys2Proof.Machine

/-! ## The ends of moves, logic and additions -/

/-- LOGF: Z and S from the result, the others kept. -/
theorem pswLogic_fields {w : Nat} (p : Byte) (v : BitVec w) :
    PswIs (pswLogic p v) (getFlag p .c) (decide (v = 0)) (decide (2 ^ (w - 1) ≤ v.toNat))
      (getFlag p .ov) (getFlag p .mie) (getFlag p .hc) (elevel p) := by
  have hz : (v == 0) = decide (v = 0) := rfl
  rw [← BitVec.msb_eq_decide, ← hz]
  exact pswZS_fields p (v == 0) v.msb

/-- What a byte move or logic instruction with result `v` does. -/
theorem finishR_pswLogic (s : State) (n : RegNo) (v : Byte) :
    ∃ t, finishR s n v (pswLogic s.psw v) = .next t ∧ FrameRegs s t 1 ∧ KeepsRegsBut s t n 1 ∧
      t.r n = v ∧
      PswIs t.psw (getFlag s.psw .c) (decide (v = 0x00#8)) (decide (128 ≤ v.toNat))
        (getFlag s.psw .ov) (getFlag s.psw .mie) (getFlag s.psw .hc) (elevel s.psw) := by
  obtain ⟨t, hnext, hframe, hkeeps, hvalue, hpsw⟩ := finishR_spec s n v (pswLogic s.psw v)
  exact ⟨t, hnext, hframe, hkeeps, hvalue, hpsw ▸ pswLogic_fields s.psw v⟩

/-- What a word move with result `v` does. -/
theorem finishEr_pswLogic (s : State) (n : RegNo) (v : Word) :
    ∃ t, finishEr s n v (pswLogic s.psw v) = .next t ∧ FrameRegs s t 1 ∧ KeepsRegsBut s t n 2 ∧
      t.er n = v ∧
      PswIs t.psw (getFlag s.psw .c) (decide (v = 0x0000#16)) (decide (32768 ≤ v.toNat))
        (getFlag s.psw .ov) (getFlag s.psw .mie) (getFlag s.psw .hc) (elevel s.psw) := by
  obtain ⟨t, hnext, hframe, hkeeps, hvalue, hpsw⟩ := finishEr_spec s n v (pswLogic s.psw v)
  exact ⟨t, hnext, hframe, hkeeps, hvalue, hpsw ▸ pswLogic_fields s.psw v⟩

/-- What a byte addition does whose PSW has the flags of ADDF, Z combined with `zin`. -/
theorem finishR_addF (s : State) (n : RegNo) (b p : Byte) (cin zin : Bool)
    (hp : PswIs p (addF (s.r n) b cin).c (zin && (addF (s.r n) b cin).z) (addF (s.r n) b cin).s
      (addF (s.r n) b cin).ov (getFlag s.psw .mie) (addF (s.r n) b cin).hc (elevel s.psw)) :
    let a := s.r n
    let sum := a.toNat + b.toNat + cin.toNat
    let signed : Int := a.toInt + b.toInt + cin.toNat
    ∃ t, finishR s n (addF a b cin).value p = .next t ∧ FrameRegs s t 1 ∧ KeepsRegsBut s t n 1 ∧
      (t.r n).toNat = sum % 256 ∧
      PswIs t.psw (decide (256 ≤ sum)) (zin && decide (sum % 256 = 0)) (decide (128 ≤ sum % 256))
        (decide (signed < -128 ∨ 127 < signed)) (getFlag s.psw .mie)
        (decide (16 ≤ a.toNat % 16 + b.toNat % 16 + cin.toNat)) (elevel s.psw) := by
  intro a sum signed
  obtain ⟨hsum, hc, hz, hs, hov, hhc⟩ := addF_byte (s.r n) b cin
  obtain ⟨t, hnext, hframe, hkeeps, hvalue, hpsw⟩ := finishR_spec s n (addF a b cin).value p
  simp only [hc, hz, hs, hov, hhc] at hp
  exact ⟨t, hnext, hframe, hkeeps, hvalue ▸ hsum, hpsw ▸ hp⟩

/-- What a word addition does. -/
theorem finishEr_addF (s : State) (n : RegNo) (b : Word) :
    let a := s.er n
    let sum := a.toNat + b.toNat
    let signed : Int := a.toInt + b.toInt
    ∃ t, finishEr s n (addF a b false).value (pswArith s.psw (addF a b false)) = .next t ∧
      FrameRegs s t 1 ∧ KeepsRegsBut s t n 2 ∧ (t.er n).toNat = sum % 65536 ∧
      PswIs t.psw (decide (65536 ≤ sum)) (decide (sum % 65536 = 0)) (decide (32768 ≤ sum % 65536))
        (decide (signed < -32768 ∨ 32767 < signed)) (getFlag s.psw .mie)
        (decide (4096 ≤ a.toNat % 4096 + b.toNat % 4096)) (elevel s.psw) := by
  intro a sum signed
  have hadd := addF_word a b false
  simp only [Bool.toNat_false, Nat.add_zero, Nat.cast_zero, Int.add_zero] at hadd
  obtain ⟨hsum, hc, hz, hs, hov, hhc⟩ := hadd
  obtain ⟨t, hnext, hframe, hkeeps, hvalue, hpsw⟩ :=
    finishEr_spec s n (addF a b false).value (pswArith s.psw (addF a b false))
  have hp := pswArith_fields s.psw (addF a b false)
  simp only [hc, hz, hs, hov, hhc] at hp
  exact ⟨t, hnext, hframe, hkeeps, hvalue ▸ hsum, hpsw ▸ hp⟩

/-- A word with the signed value of a 7-bit immediate is its sign extension. -/
theorem eq_sext7_of_toInt_eq {v : Word} {imm : BitVec 7} (h : v.toInt = imm.toInt) :
    v = sext7 imm :=
  BitVec.eq_of_toInt_eq (h.trans (BitVec.toInt_signExtend_of_le (by omega)).symm)

/-! ## The obligations -/

/-- Settles O15: all four forms end by writing the result of ADDF, and only the rule for Z tells ADD
from ADDC. -/
theorem byteAdditionAddsAndSetsEveryFlag : Obligations.ByteAdditionAddsAndSetsEveryFlag := by
  refine ⟨fun n m imm w2 => ?_, fun s i n m b cin zin h => ?_⟩
  · simp only [decodeWords_packWord, decodeDigits, decode8, imm8Field_hiNibble_loNibble, and_self]
  · have hadd := pswArith_fields s.psw (addF (s.r n) b false)
    have haddc := pswArithCarry_fields s.psw (addF (s.r n) b (getFlag s.psw .c))
    rw [← Bool.true_and (addF (s.r n) b false).z] at hadd
    rcases h with ⟨rfl, rfl, rfl, rfl⟩ | ⟨rfl, rfl, rfl⟩ | ⟨rfl, rfl, rfl, rfl⟩ | ⟨rfl, rfl, rfl⟩
    · exact finishR_addF s n _ _ _ _ hadd
    · exact finishR_addF s n _ _ _ _ hadd
    · exact finishR_addF s n _ _ _ _ haddc
    · exact finishR_addF s n _ _ _ _ haddc

/-- Settles O17: all eight forms end by writing their result with Z and S from it. -/
theorem byteMovesAndLogicSetOnlyZAndS : Obligations.ByteMovesAndLogicSetOnlyZAndS := by
  refine ⟨fun n m imm w2 => ?_, fun s i n m b v h => ?_⟩
  · simp only [decodeWords_packWord, decodeDigits, decode8, imm8Field_hiNibble_loNibble, and_self]
  · have hexec : exec i s = finishR s n v (pswLogic s.psw v) := by
      rcases h with ⟨rfl, rfl⟩ | ⟨rfl, rfl⟩ | ⟨rfl, rfl⟩ | ⟨rfl, rfl⟩ | ⟨rfl, rfl⟩ | ⟨rfl, rfl⟩ |
        ⟨rfl, rfl⟩ | ⟨rfl, rfl⟩ <;> rfl
    rw [hexec]
    exact finishR_pswLogic s n v

/-- Settles O18: the operand is a register or a sign-extended immediate, and both forms end by writing
the result of ADDF for words. -/
theorem wordAdditionAddsAndSetsEveryFlag : Obligations.WordAdditionAddsAndSetsEveryFlag := by
  refine ⟨fun n m imm w2 hn hm => ?_, fun s i n m imm b h => ?_⟩
  · simp only [decodeWords_packWord]
    exact ⟨onlyIf_wordRegs hn hm _, decodeE_of_isWordReg hn 0b1#1 imm⟩
  · have hexec : exec i s =
        finishEr s n (addF (s.er n) b false).value (pswArith s.psw (addF (s.er n) b false)) := by
      rcases h with ⟨rfl, rfl⟩ | ⟨rfl, himm⟩
      · rfl
      · rw [eq_sext7_of_toInt_eq himm]
        rfl
    rw [hexec]
    exact finishEr_addF s n b

/-- Settles O20: the value is a register or a sign-extended immediate, and both forms end by writing it
with Z and S from it. -/
theorem wordMovesSetOnlyZAndS : Obligations.WordMovesSetOnlyZAndS := by
  refine ⟨fun n m imm w2 hn hm => ?_, fun s i n m imm v h => ?_⟩
  · simp only [decodeWords_packWord]
    exact ⟨onlyIf_wordRegs hn hm _, decodeE_of_isWordReg hn 0b0#1 imm⟩
  · have hexec : exec i s = finishEr s n v (pswLogic s.psw v) := by
      rcases h with ⟨rfl, rfl⟩ | ⟨rfl, himm⟩
      · rfl
      · rw [eq_sext7_of_toInt_eq himm]
        rfl
    rw [hexec]
    exact finishEr_pswLogic s n v

end Sys2Proof.Machine
end

section
/-! PROOFS. The shift instructions (spec/41_shift.md). -/

namespace Sys2Proof.Machine

/-! ## The field of a constant shift count (spec/30_encoding.md R95) -/

@[simp] theorem field3_append (f : BitVec 1) (v : BitVec 3) : field3 (f ++ v) = v := by
  revert f v
  decide

/-- Digit C of the width format has bit 7 clear, so the decoder accepts it. -/
theorem onlyIf_widthDigit (width : BitVec 3) (i : Instr) :
    onlyIf (!topBit (0b0#1 ++ width)) i = some i := by
  rw [topBit_append]
  rfl

/-! ## The bits that leave a register, as numbers -/

theorem getLsbD_eq_decide {w : Nat} (x : BitVec w) (i : Nat) :
    x.getLsbD i = decide (x.toNat / 2 ^ i % 2 = 1) :=
  Nat.testBit_eq_decide_div_mod_eq

/-- The last bit shifted out at the left is bit `w` of the shifted value. -/
theorem getLsbD_sub_eq_decide {w k : Nat} (x : BitVec w) (hk : k ≤ w) :
    x.getLsbD (w - k) = decide (x.toNat * 2 ^ k / 2 ^ w % 2 = 1) := by
  have hdiv : x.toNat * 2 ^ k / 2 ^ w = x.toNat / 2 ^ (w - k) := by
    rw [← Nat.pow_sub_mul_pow 2 hk, Nat.mul_div_mul_right _ _ (Nat.two_pow_pos k)]
  rw [hdiv, getLsbD_eq_decide]

theorem mkWord_toNat (hi lo : Byte) : (mkWord hi lo).toNat = hi.toNat * 256 + lo.toNat := by
  have happend : (mkWord hi lo).toNat = hi.toNat <<< 8 ||| lo.toNat := BitVec.toNat_append hi lo
  rw [happend, ← Nat.shiftLeft_add_eq_or_of_lt lo.isLt, Nat.shiftLeft_eq]

theorem hiByte_shiftLeft_toNat (v : Word) (k : Nat) :
    (hiByte (v <<< k)).toNat = v.toNat * 2 ^ k / 256 % 256 := by
  simp only [hiByte, BitVec.extractLsb'_toNat, BitVec.toNat_shiftLeft, Nat.shiftLeft_eq,
    Nat.shiftRight_eq_div_pow]
  omega

theorem loByte_shiftRight_toNat (v : Word) (k : Nat) :
    (loByte (v >>> k)).toNat = v.toNat / 2 ^ k % 256 := by
  simp only [loByte, BitVec.extractLsb'_toNat, BitVec.toNat_ushiftRight,
    Nat.shiftRight_eq_div_pow]
  omega

/-! ## What each shift does -/

/-- The count of a register form is at most 7 (spec/41_shift.md R150). -/
theorem shiftCount_lt (s : State) (m : RegNo) : s.shiftCount m < 8 :=
  Nat.mod_lt _ (by omega)

/-- How a shift of R[n] by `k` ends: `value` says what R[n] now holds, and of the flags only C changes,
to `c` and only with a count above 0 (spec/41_shift.md R150). -/
def ShiftEnds (x : Res State) (s : State) (n : RegNo) (k : Nat) (value : Byte → Prop) (c : Bool) :
    Prop :=
  ∃ t, x = .next t ∧ FrameRegs s t 1 ∧ KeepsRegsBut s t n 1 ∧ value (t.r n) ∧
    PswIs t.psw (if k = 0 then getFlag s.psw .c else c) (getFlag s.psw .z) (getFlag s.psw .s)
      (getFlag s.psw .ov) (getFlag s.psw .mie) (getFlag s.psw .hc) (elevel s.psw)

/-- A shift that writes what the register holds already, when the count is 0, needs no case of its own
for that count. -/
theorem finishShift_ends (s : State) (n : RegNo) {k : Nat} {v : Byte} {last : Bool}
    {value : Byte → Prop} {c : Bool} (hzero : k = 0 → v = s.r n) (hvalue : value v)
    (hc : last = c) : ShiftEnds (finishShift s n k v last) s n k value c := by
  subst hc
  obtain ⟨t, hnext, hframe, hkeeps, hr, hpsw⟩ := finishShift_spec s n k v last
  have htv : t.r n = v := by
    rw [hr]
    split
    · next hk => exact (hzero hk).symm
    · rfl
  refine ⟨t, hnext, hframe, hkeeps, htv ▸ hvalue, ?_⟩
  rw [hpsw]
  split
  · exact ⟨rfl, rfl, rfl, rfl, rfl, rfl, rfl⟩
  · simp [PswIs, getFlag_setFlag, elevel_setFlag]

/-- SLL: the low byte of the product; C is the bit above it. -/
theorem shiftLeft_ends (s : State) (n : RegNo) {k : Nat} (hk : k < 8) :
    let x := (s.r n).toNat
    ShiftEnds (shiftLeft n k s) s n k (fun v => v.toNat = x * 2 ^ k % 256)
      (decide (x * 2 ^ k / 256 % 2 = 1)) :=
  finishShift_ends s n (by rintro rfl; exact BitVec.shiftLeft_zero _)
    (by rw [BitVec.toNat_shiftLeft, Nat.shiftLeft_eq]) (getLsbD_sub_eq_decide _ hk.le)

/-- SRL: the quotient; C is bit `k - 1` of the register. -/
theorem shiftRight_ends (s : State) (n : RegNo) (k : Nat) :
    let x := (s.r n).toNat
    ShiftEnds (shiftRight n k s) s n k (fun v => v.toNat = x / 2 ^ k)
      (decide (x / 2 ^ (k - 1) % 2 = 1)) :=
  finishShift_ends s n (by rintro rfl; exact BitVec.ushiftRight_zero _)
    (by rw [BitVec.toNat_ushiftRight, Nat.shiftRight_eq_div_pow]) (getLsbD_eq_decide _ _)

/-- SLLC: the high byte of the shifted word made with the register below. -/
theorem shiftLeftContinued_ends (s : State) (n : RegNo) {k : Nat} (hk : k < 8) :
    let x := (s.r n).toNat * 256 + (s.r (n - 1)).toNat
    ShiftEnds (shiftLeftContinued n k s) s n k (fun v => v.toNat = x * 2 ^ k / 256 % 256)
      (decide (x * 2 ^ k / 65536 % 2 = 1)) := by
  have hc := getLsbD_sub_eq_decide (mkWord (s.r n) (s.r (n - 1))) (show k ≤ 16 by omega)
  rw [mkWord_toNat] at hc
  exact finishShift_ends s n (by rintro rfl; rw [BitVec.shiftLeft_zero, hiByte_mkWord])
    (by rw [hiByte_shiftLeft_toNat, mkWord_toNat]) hc

/-- SRLC: the low byte of the shifted word made with the register above. -/
theorem shiftRightContinued_ends (s : State) (n : RegNo) (k : Nat) :
    let x := (s.r (n + 1)).toNat * 256 + (s.r n).toNat
    ShiftEnds (shiftRightContinued n k s) s n k (fun v => v.toNat = x / 2 ^ k % 256)
      (decide (x / 2 ^ (k - 1) % 2 = 1)) := by
  have hc := getLsbD_eq_decide (mkWord (s.r (n + 1)) (s.r n)) (k - 1)
  rw [mkWord_toNat] at hc
  exact finishShift_ends s n (by rintro rfl; rw [BitVec.ushiftRight_zero, loByte_mkWord])
    (by rw [loByte_shiftRight_toNat, mkWord_toNat]) hc

/-- SRA: the floor of the signed quotient; C as SRL leaves it. -/
theorem shiftRightArith_ends (s : State) (n : RegNo) (k : Nat) :
    ShiftEnds (shiftRightArith n k s) s n k (fun v => v.toInt = (s.r n).toInt / 2 ^ k)
      (decide ((s.r n).toNat / 2 ^ (k - 1) % 2 = 1)) :=
  finishShift_ends s n (by rintro rfl; exact BitVec.sshiftRight_zero)
    (by rw [BitVec.toInt_sshiftRight, Int.shiftRight_eq_div_pow]; rfl) (getLsbD_eq_decide _ _)

/-! ## The obligations -/

/-- Settles O22: the register form and the constant form are one shift, by a count below 8. -/
theorem logicalShiftsMoveBitsThroughC : Obligations.LogicalShiftsMoveBitsThroughC := by
  refine ⟨fun n m width w2 => ?_, fun s i n m width k v c h => ?_⟩
  · simp only [decodeWords_packWord, decodeDigits, decode8, decode9, onlyIf_widthDigit,
      field3_append, and_self]
  · rcases h with ⟨⟨rfl, rfl⟩ | ⟨rfl, rfl⟩, rfl, rfl⟩ | ⟨⟨rfl, rfl⟩ | ⟨rfl, rfl⟩, rfl, rfl⟩
    · exact shiftLeft_ends s n (shiftCount_lt s m)
    · exact shiftLeft_ends s n width.isLt
    · exact shiftRight_ends s n (s.shiftCount m)
    · exact shiftRight_ends s n width.toNat

/-- Settles O23: as O22, on the word that the register makes with its neighbour. -/
theorem continuedShiftsTakeBitsFromTheNeighbour :
    Obligations.ContinuedShiftsTakeBitsFromTheNeighbour := by
  refine ⟨fun n m width w2 => ?_, fun s i n m width k v c h => ?_⟩
  · simp only [decodeWords_packWord, decodeDigits, decode8, decode9, onlyIf_widthDigit,
      field3_append, and_self]
  · rcases h with ⟨⟨rfl, rfl⟩ | ⟨rfl, rfl⟩, rfl, rfl⟩ | ⟨⟨rfl, rfl⟩ | ⟨rfl, rfl⟩, rfl, rfl⟩
    · exact shiftLeftContinued_ends s n (shiftCount_lt s m)
    · exact shiftLeftContinued_ends s n width.isLt
    · exact shiftRightContinued_ends s n (s.shiftCount m)
    · exact shiftRightContinued_ends s n width.toNat

/-- Settles O24: an arithmetic shift right of a signed value is division by a power of two. -/
theorem arithmeticShiftDividesTheSignedValue :
    Obligations.ArithmeticShiftDividesTheSignedValue := by
  refine ⟨fun n m width w2 => ?_, fun s i n m width k h => ?_⟩
  · simp only [decodeWords_packWord, decodeDigits, decode8, decode9, onlyIf_widthDigit,
      field3_append, and_self]
  · rcases h with ⟨rfl, rfl⟩ | ⟨rfl, rfl⟩
    · exact shiftRightArith_ends s n (s.shiftCount m)
    · exact shiftRightArith_ends s n width.toNat

end Sys2Proof.Machine
end

section
/-! PROOFS. The moves of the stack pointer (spec/43_control_register.md). -/

namespace Sys2Proof.Machine

/-! ## The encodings -/

theorem decodeE_addSp (imm : Byte) :
    decodeE 0x1#4 (hiNibble imm) (loNibble imm) = some (.addSpSigned8 imm) :=
  congrArg (fun v => some (Instr.addSpSigned8 v)) (imm8Field_hiNibble_loNibble imm)

theorem decodeA_movErnSp {n : RegNo} (hn : isWordReg n = true) (w2 : Word) :
    decodeA n 0x1#4 0xA#4 w2 = some (.movErnSp n) :=
  if_pos hn

/-- 1 is no word register, so digit B does not make this MOV ERn,SP. -/
theorem decodeA_movSpErm {m : RegNo} (hm : isWordReg m = true) (w2 : Word) :
    decodeA 0x1#4 m 0xA#4 w2 = some (.movSpErm m) :=
  if_pos hm

/-! ## What each instruction does -/

/-- Adding a sign-extended byte to a word is integer addition modulo 2^16. -/
theorem toNat_add_sext8 (a : Word) (v : Byte) :
    ((a + sext8 v).toNat : Int) = ((a.toNat : Int) + v.toInt) % 65536 := by
  have hext : ((sext8 v).toNat : Int) = v.toInt % 65536 := by
    rw [sext8, BitVec.signExtend, BitVec.toNat_ofInt]
    omega
  rw [BitVec.toNat_add]
  omega

/-- Writing SP and going on to the next instruction leaves data memory alone. -/
theorem sameData_advance_sp (s : State) (v : Word) (words : Nat) :
    SameData s (State.advance { s with sp := v } words) :=
  sameData_of_eq rfl rfl rfl rfl

/-! ## The obligation -/

/-- Settles O29: two of the instructions write SP and advance, the third ends by writing a word register
with the PSW as it was. -/
theorem stackPointerInstructionsUseAllSixteenBits :
    Obligations.StackPointerInstructionsUseAllSixteenBits := by
  refine ⟨fun n imm w2 hn => ?_, fun s n imm => ⟨?add, ?fromSp, ?toSp⟩⟩
  · simp only [decodeWords_packWord]
    exact ⟨decodeE_addSp imm, decodeA_movErnSp hn w2, decodeA_movSpErm hn w2⟩
  case add =>
    exact ⟨_, rfl, rfl, toNat_add_sext8 s.sp imm, sameData_advance_sp s _ 1⟩
  case fromSp =>
    obtain ⟨t, hnext, hframe, hkeeps, hvalue, hpsw⟩ := finishEr_spec s n s.sp s.psw
    exact ⟨t, hnext, hframe, hpsw, hkeeps, hvalue⟩
  case toSp =>
    exact ⟨_, rfl, rfl, sameData_advance_sp s _ 1⟩

end Sys2Proof.Machine
end

section
/-! PROOFS. LEA and the bit instructions on a register (spec/46_ea_alu_bit_psw.md). -/

namespace Sys2Proof.Machine

/-! ## The encodings -/

theorem decodeF_leaErm {m : RegNo} (hm : isWordReg m = true) (w2 : Word) :
    decodeF 0x0#4 m 0xA#4 w2 = some (.leaErm m) :=
  if_pos hm

theorem decodeF_leaDisp16Erm {m : RegNo} (hm : isWordReg m = true) (w2 : Word) :
    decodeF 0x0#4 m 0xB#4 w2 = some (.leaDisp16Erm m w2) :=
  if_pos hm

/-- Digit C of a bit instruction with bit 7 clear names a register's bit. -/
theorem decodeBit_register (b : Nibble) (bit : BitVec 3) (reg mem : Instr) :
    decodeBit b (0b0#1 ++ bit) reg mem = some reg := by
  rw [decodeBit, topBit_append]
  rfl

/-! ## LEA -/

/-- Writing EA and going on to the next instruction leaves data memory alone. -/
theorem sameData_advance_ea (s : State) (a : Word) (words : Nat) :
    SameData s (State.advance { s with ea := a } words) :=
  sameData_of_eq rfl rfl rfl rfl

/-- The address of `Disp16[ERm]` is the sum modulo 2^16. -/
theorem eq_addrDisp16_of_toNat_eq {s : State} {m : RegNo} {disp a : Word}
    (h : a.toNat = ((s.er m).toNat + disp.toNat) % 65536) : a = s.addrDisp16 m disp :=
  BitVec.eq_of_toNat_eq (h.trans (BitVec.toNat_add (s.er m) disp).symm)

/-! ## One bit of a byte -/

/-- The byte with bit `b.toNat` alone set is the mask of both `withBit` and `withoutBit`. -/
theorem getLsbD_bitMask (b : BitVec 3) (j : Nat) :
    (0x01#8 <<< b.toNat).getLsbD j = decide (j = b.toNat) := by
  have hb : b.toNat < 8 := b.isLt
  simp only [BitVec.getLsbD_shiftLeft, BitVec.getLsbD_one]
  grind

theorem getLsbD_withBit (v : Byte) (b : BitVec 3) (j : Nat) :
    (withBit v b).getLsbD j = if j = b.toNat then true else v.getLsbD j := by
  rw [withBit, BitVec.getLsbD_or, getLsbD_bitMask]
  by_cases hj : j = b.toNat <;> simp [hj]

theorem getLsbD_withoutBit (v : Byte) (b : BitVec 3) (j : Nat) :
    (withoutBit v b).getLsbD j = if j = b.toNat then false else v.getLsbD j := by
  rw [withoutBit, BitVec.getLsbD_and, BitVec.getLsbD_not, getLsbD_bitMask]
  by_cases hj : j = b.toNat
  · simp [hj]
  · simpa [hj] using fun h => BitVec.lt_of_getLsbD h

/-- The fields after a bit instruction: Z alone changes. -/
theorem pswBit_fields (p v : Byte) (b : BitVec 3) :
    PswIs (pswBit p v b) (getFlag p .c) (!v.getLsbD b.toNat) (getFlag p .s) (getFlag p .ov)
      (getFlag p .mie) (getFlag p .hc) (elevel p) := by
  simp [PswIs, pswBit, getFlag_setFlag, elevel_setFlag]

/-! ## The bit instructions on a register -/

/-- How a bit instruction on R[n] ends: the bit becomes `new`, the others stay, and Z is the inverse of
the bit before. -/
def BitEnds (x : Res State) (s : State) (n : RegNo) (bit : BitVec 3) (new : Bool) : Prop :=
  ∃ t, x = .next t ∧ FrameRegs s t 1 ∧ KeepsRegsBut s t n 1 ∧
    (∀ j, (t.r n).getLsbD j = if j = bit.toNat then new else (s.r n).getLsbD j) ∧
    t.psw = pswBit s.psw (s.r n) bit

/-- SB and RB: what the written value says of each bit. -/
theorem finishR_bitEnds (s : State) (n : RegNo) {bit : BitVec 3} {v : Byte} {new : Bool}
    (hv : ∀ j, v.getLsbD j = if j = bit.toNat then new else (s.r n).getLsbD j) :
    BitEnds (finishR s n v (pswBit s.psw (s.r n) bit)) s n bit new := by
  obtain ⟨t, hnext, hframe, hkeeps, hvalue, hpsw⟩ :=
    finishR_spec s n v (pswBit s.psw (s.r n) bit)
  exact ⟨t, hnext, hframe, hkeeps, hvalue ▸ hv, hpsw⟩

/-- TB writes no register, so the bit keeps its value. -/
theorem finishPsw_bitEnds (s : State) (n : RegNo) (bit : BitVec 3) :
    BitEnds (finishPsw s (pswBit s.psw (s.r n) bit)) s n bit ((s.r n).getLsbD bit.toNat) := by
  obtain ⟨t, hnext, hframe, hregs, hpsw⟩ := finishPsw_spec s (pswBit s.psw (s.r n) bit)
  refine ⟨t, hnext, hframe, keepsRegsBut_of_eq hregs n 1, fun j => ?_, hpsw⟩
  rw [r_congr hregs]
  split
  · next hj => rw [hj]
  · rfl

/-! ## The obligations -/

/-- Settles O46: SB and RB end by writing the byte with one bit replaced, TB by writing the PSW alone. -/
theorem registerBitInstructionsChangeOneBit : Obligations.RegisterBitInstructionsChangeOneBit := by
  refine ⟨fun n bit w2 => ?_, fun s i n bit new h => ?_⟩
  · simp only [decodeWords_packWord, decodeDigits, decodeA, decodeBit_register, field3_append,
      and_self]
  · have hends : BitEnds (exec i s) s n bit new := by
      rcases h with ⟨rfl, rfl⟩ | ⟨rfl, rfl⟩ | ⟨rfl, rfl⟩
      · exact finishR_bitEnds s n (getLsbD_withBit (s.r n) bit)
      · exact finishR_bitEnds s n (getLsbD_withoutBit (s.r n) bit)
      · exact finishPsw_bitEnds s n bit
    obtain ⟨t, hnext, hframe, hkeeps, hbits, hpsw⟩ := hends
    exact ⟨t, hnext, hframe, hkeeps, (hbits bit.toNat).trans (if_pos rfl),
      fun j hj => (hbits j).trans (if_neg hj), hpsw ▸ pswBit_fields s.psw (s.r n) bit⟩

/-- Settles O44: each form writes its address to EA and goes on, and none looks at memory. -/
theorem leaLoadsTheAddressItself : Obligations.LeaLoadsTheAddressItself := by
  refine ⟨fun m w2 hm => ?_, fun s i m disp a words h => ?_⟩
  · simp only [decodeWords_packWord]
    exact ⟨decodeF_leaErm hm w2, decodeF_leaDisp16Erm hm w2, rfl⟩
  · have hexec : exec i s = .next (State.advance { s with ea := a } words) := by
      rcases h with ⟨rfl, rfl, rfl⟩ | ⟨rfl, ha, rfl⟩ | ⟨rfl, rfl⟩
      · rfl
      · rw [eq_addrDisp16_of_toNat_eq ha]
        rfl
      · rfl
    exact ⟨_, hexec, rfl, sameData_advance_ea s a words⟩

end Sys2Proof.Machine
end

section
/-! PROOFS. Conditional branches and EXTBW (spec/47_branch_swi.md). -/

namespace Sys2Proof.Machine

/-! ## The condition table (spec/47_branch_swi.md R321) -/

/-- The number of a condition: digit B of its branch. -/
def Cond.code : Cond → Nibble
  | .ge => 0x0#4
  | .lt => 0x1#4
  | .gt => 0x2#4
  | .le => 0x3#4
  | .ges => 0x4#4
  | .lts => 0x5#4
  | .gts => 0x6#4
  | .les => 0x7#4
  | .ne => 0x8#4
  | .eq => 0x9#4
  | .nv => 0xA#4
  | .ov => 0xB#4
  | .ps => 0xC#4
  | .ns => 0xD#4
  | .al => 0xE#4

/-- The branch on a condition. -/
def Cond.branch : Cond → Byte → Instr
  | .ge => .bge
  | .lt => .blt
  | .gt => .bgt
  | .le => .ble
  | .ges => .bges
  | .lts => .blts
  | .gts => .bgts
  | .les => .bles
  | .ne => .bne
  | .eq => .beq
  | .nv => .bnv
  | .ov => .bov
  | .ps => .bps
  | .ns => .bns
  | .al => .bal

theorem exec_branch (k : Cond) (radr : Byte) (s : State) :
    exec (k.branch radr) s = branchOn k radr s := by
  cases k <;> rfl

theorem decodeC_code (k : Cond) (c d : Nibble) :
    decodeC k.code c d = some (k.branch (imm8Field c d)) := by
  cases k <;> rfl

/-- The model writes "OV equals S" as the negated exclusive or of R321. -/
theorem holds_ges (psw : Byte) : Cond.ges.holds psw = (getFlag psw .ov == getFlag psw .s) :=
  Bool.not_not _

theorem holds_gts (psw : Byte) :
    Cond.gts.holds psw = ((getFlag psw .ov == getFlag psw .s) && !getFlag psw .z) :=
  (Bool.not_or _ _).trans (congrArg (· && !getFlag psw .z) (holds_ges psw))

/-! ## Where a branch goes (spec/47_branch_swi.md R320) -/

theorem nextPc_one_toNat {s : State} (h : s.pc.getLsbD 0 = false) :
    (s.nextPc 1).toNat = (s.pc.toNat + 2) % 65536 := by
  have hsum : (s.pc + 2#16).toNat = (s.pc.toNat + 2) % 65536 := BitVec.toNat_add s.pc 2#16
  have heven : (s.pc + 2#16).getLsbD 0 = false := by
    rw [even_iff] at *
    omega
  exact (congrArg BitVec.toNat (evenAddr_of_even heven)).trans hsum

/-- Twice the signed field is the field added twice. -/
theorem branchTarget_toNat {s : State} (h : s.pc.getLsbD 0 = false) (radr : Byte) :
    ((s.branchTarget radr).toNat : Int) = ((s.pc.toNat : Int) + 2 + 2 * radr.toInt) % 65536 := by
  have htwice : s.branchTarget radr = s.nextPc 1 + sext8 radr + sext8 radr := by
    rw [State.branchTarget, BitVec.two_mul, BitVec.add_assoc]
  have hnext := nextPc_one_toNat h
  rw [htwice, toNat_add_sext8, toNat_add_sext8]
  omega

/-- From an even PC the target is even, so that clearing bit 0 at the write to PC changes nothing. -/
theorem jump_branchTarget_pc_toNat {s : State} (h : s.pc.getLsbD 0 = false) (radr : Byte) :
    ((s.jump (s.branchTarget radr)).pc.toNat : Int) =
      ((s.pc.toNat : Int) + 2 + 2 * radr.toInt) % 65536 := by
  have htarget := branchTarget_toNat h radr
  have heven : (s.branchTarget radr).getLsbD 0 = false := by
    rw [even_iff] at *
    omega
  rw [jump_pc, evenAddr_of_even heven, htarget]

/-- What a conditional branch does: taken or not, only PC and the two latches change. -/
theorem branchOn_spec (k : Cond) (radr : Byte) (s : State) :
    ∃ t, branchOn k radr s = .next t ∧
      t = { s with pc := t.pc, dsrPrefix := false, intBlock := false } ∧
      (s.pc.getLsbD 0 = false → (t.pc.toNat : Int) =
        ((s.pc.toNat : Int) + 2 + if k.holds s.psw then 2 * radr.toInt else 0) % 65536) ∧
      SameData s t := by
  unfold branchOn
  split
  case isTrue =>
    exact ⟨_, rfl, rfl, fun h => jump_branchTarget_pc_toNat h radr, sameData_of_eq rfl rfl rfl rfl⟩
  case isFalse =>
    refine ⟨_, rfl, rfl, fun h => ?_, sameData_of_eq rfl rfl rfl rfl⟩
    rw [advance_pc, nextPc_one_toNat h]
    omega

/-! ## EXTBW (spec/47_branch_swi.md R322) -/

/-- An even digit C of `8 b c F` names a word register, and then digit B is the register above it. -/
theorem decode8F_of_ne_succ {b c : Nibble} (hc : c.getLsbD 0 = false) (hb : b ≠ c + 1) :
    decode8F b c = none := by
  unfold decode8F
  split
  case h_12 => rfl
  case h_1 | h_2 | h_3 => cases hc
  all_goals exact if_neg fun h => hb (beq_iff_eq.mp h)

/-- A byte under its own sign is its sign extension. -/
theorem mkWord_sign_eq_sext8 (v : Byte) :
    mkWord (if v.msb then 0xFF#8 else 0x00#8) v = sext8 v := by
  revert v
  decide

/-- What EXTBW does: the lower byte is not the one written, so it is as before. -/
theorem extendSign_spec (n : RegNo) (s : State) :
    ∃ t, extendSign n s = .next t ∧ FrameRegs s t 1 ∧ KeepsRegsBut s t (n + 1) 1 ∧
      (t.er n).toInt = (s.r n).toInt ∧ t.psw = pswLogic s.psw (s.r n) := by
  obtain ⟨t, hnext, hframe, hkeeps, hupper, hpsw⟩ :=
    finishR_spec s (n + 1) (if (s.r n).msb then 0xFF#8 else 0x00#8) (pswLogic s.psw (s.r n))
  have hlower : t.r n = s.r n := by
    refine hkeeps n fun i hi => ?_
    obtain rfl : i = 0 := by omega
    rw [BitVec.add_zero]
    exact (succ_ne_self n).symm
  have her : t.er n = sext8 (s.r n) := by
    rw [State.er, hupper, hlower, mkWord_sign_eq_sext8]
  refine ⟨t, hnext, hframe, hkeeps, ?_, hpsw⟩
  rw [her]
  exact BitVec.toInt_signExtend_of_le (by omega)

/-! ## The obligations -/

/-- Settles O50: each row of the table is a condition with its number, its branch and what makes it
true, and all fifteen branches are one operation on the condition. -/
theorem conditionalBranchesFollowTheConditionTable :
    Obligations.ConditionalBranchesFollowTheConditionTable := by
  intro s i radr cccc taken c z sf ov h
  have hrow : ∃ k : Cond, i = k.branch radr ∧ cccc = k.code ∧ taken = k.holds s.psw := by
    rcases h with h | h | h | h | h | h | h | h | h | h | h | h | h | h | h
    · exact ⟨.ge, h⟩
    · exact ⟨.lt, h⟩
    · exact ⟨.gt, h⟩
    · exact ⟨.le, h⟩
    · exact ⟨.ges, holds_ges s.psw ▸ h⟩
    · exact ⟨.lts, h⟩
    · exact ⟨.gts, holds_gts s.psw ▸ h⟩
    · exact ⟨.les, h⟩
    · exact ⟨.ne, h⟩
    · exact ⟨.eq, h⟩
    · exact ⟨.nv, h⟩
    · exact ⟨.ov, h⟩
    · exact ⟨.ps, h⟩
    · exact ⟨.ns, h⟩
    · exact ⟨.al, h⟩
  obtain ⟨k, rfl, rfl, rfl⟩ := hrow
  refine ⟨fun w2 => ?listed, fun w2 => ?unlisted, ?_⟩
  case listed =>
    rw [decodeWords_packWord]
    exact (decodeC_code k _ _).trans (by rw [imm8Field_hiNibble_loNibble])
  case unlisted =>
    rw [decodeWords_packWord]
    rfl
  rw [exec_branch]
  exact branchOn_spec k radr s

/-- Settles O51: the eight forms are one operation on the word register, and the decoder lists a word
only when its two register fields agree. -/
theorem extbwExtendsTheSign : Obligations.ExtbwExtendsTheSign := by
  intro s i n h
  have hform : decode8F (n + 1) n = some i ∧ exec i s = extendSign n s := by
    rcases h with ⟨rfl, rfl⟩ | ⟨rfl, rfl⟩ | ⟨rfl, rfl⟩ | ⟨rfl, rfl⟩ | ⟨rfl, rfl⟩ | ⟨rfl, rfl⟩ |
      ⟨rfl, rfl⟩ | ⟨rfl, rfl⟩ <;> exact ⟨rfl, rfl⟩
  obtain ⟨hdecode, hexec⟩ := hform
  refine ⟨fun w2 => ?listed, fun b c w2 _ hc hb => ?unlisted, ?_⟩
  case listed =>
    rw [decodeWords_packWord]
    exact hdecode
  case unlisted =>
    rw [decodeWords_packWord]
    exact decode8F_of_ne_succ hc hb
  obtain ⟨t, hnext, hframe, hkeeps, hvalue, hpsw⟩ := extendSign_spec n s
  exact ⟨t, hexec.trans hnext, hframe, hkeeps, hvalue,
    hpsw ▸ pswZS_fields s.psw (s.r n == 0x00#8) (s.r n).msb⟩

end Sys2Proof.Machine
end

section
/-! PROOFS. The decoder and the encoder are inverse to each other (spec/30_encoding.md R90 to R100).
-/

namespace Sys2Proof.Machine

/-! ## Words and fields put together from their digits -/

theorem packWord_digits (w : Word) : packWord (digitA w) (digitB w) (digitC w) (digitD w) = w := by
  apply BitVec.eq_of_getLsbD_eq
  intro i hi
  simp only [packWord_getLsbD, digitA, digitB, digitC, digitD, BitVec.getLsbD_extractLsb']
  grind

@[simp] theorem hiNibble_imm8Field (c d : Nibble) : hiNibble (imm8Field c d) = c := by
  revert c d
  decide

@[simp] theorem loNibble_imm8Field (c d : Nibble) : loNibble (imm8Field c d) = d := by
  revert c d
  decide

/-- Digit C of the six-bit formats: two function bits over the upper two bits of the field. -/
@[simp] theorem field6_cut (f : BitVec 2) (v : BitVec 6) :
    field6 (f ++ v.extractLsb' 4 2) (v.extractLsb' 0 4) = v := by
  revert f v
  decide

@[simp] theorem topTwo_append (f v : BitVec 2) : topTwo (f ++ v) = f := by
  revert f v
  decide

theorem append_field6 {c : Nibble} {f : BitVec 2} (h : topTwo c = f) (d : Nibble) :
    f ++ (field6 c d).extractLsb' 4 2 = c := by
  revert c d f
  decide

@[simp] theorem field6_low (c d : Nibble) : (field6 c d).extractLsb' 0 4 = d := by
  revert c d
  decide

theorem clear_append_imm7Field {c : Nibble} (h : topBit c = false) (d : Nibble) :
    0b0#1 ++ (imm7Field c d).extractLsb' 4 3 = c := by
  revert c d
  decide

theorem set_append_imm7Field {c : Nibble} (h : topBit c = true) (d : Nibble) :
    0b1#1 ++ (imm7Field c d).extractLsb' 4 3 = c := by
  revert c d
  decide

@[simp] theorem imm7Field_low (c d : Nibble) : (imm7Field c d).extractLsb' 0 4 = d := by
  revert c d
  decide

/-- Digit C of the formats with a three-bit field: a function bit over the field. -/
theorem clear_append_field3 {c : Nibble} (h : (!topBit c) = true) : 0b0#1 ++ field3 c = c := by
  revert c
  decide

theorem set_append_field3 {c : Nibble} (h : topBit c = true) : 0b1#1 ++ field3 c = c := by
  revert c
  decide

/-! ## What the decoder accepts is what the encoder writes -/

/-- Whatever instruction `x` holds is well formed, and its words are `w1` and, if it has a second,
`w2`. -/
def Accepts (x : Option Instr) (w1 w2 : Word) : Prop :=
  ∀ i, x = some i → i.wf = true ∧ encode i = if i.words = 2 then [w1, w2] else [w1]

theorem accepts_none (w1 w2 : Word) : Accepts none w1 w2 := nofun

theorem accepts_some {i : Instr} {w1 w2 : Word}
    (h : i.wf = true ∧ encode i = if i.words = 2 then [w1, w2] else [w1]) :
    Accepts (some i) w1 w2 := by
  rintro _ ⟨⟩
  exact h

theorem accepts_ite {b : Bool} {x y : Option Instr} {w1 w2 : Word}
    (hx : b = true → Accepts x w1 w2) (hy : b = false → Accepts y w1 w2) :
    Accepts (if b then x else y) w1 w2 := by
  cases b
  · exact hy rfl
  · exact hx rfl

theorem accepts_onlyIf {b : Bool} {i : Instr} {w1 w2 : Word}
    (h : b = true → i.wf = true ∧ encode i = if i.words = 2 then [w1, w2] else [w1]) :
    Accepts (onlyIf b i) w1 w2 :=
  accepts_ite (fun hb => accepts_some (h hb)) fun _ => accepts_none w1 w2

theorem accepts_onWord {n : RegNo} {i : Instr} {w1 w2 : Word}
    (h : isWordReg n = true → i.wf = true ∧ encode i = if i.words = 2 then [w1, w2] else [w1]) :
    Accepts (onWord n i) w1 w2 := accepts_onlyIf h

theorem accepts_onDouble {n : RegNo} {i : Instr} {w1 w2 : Word}
    (h : isDoubleReg n = true → i.wf = true ∧ encode i = if i.words = 2 then [w1, w2] else [w1]) :
    Accepts (onDouble n i) w1 w2 := accepts_onlyIf h

theorem accepts_onQuad {n : RegNo} {i : Instr} {w1 w2 : Word}
    (h : isQuadReg n = true → i.wf = true ∧ encode i = if i.words = 2 then [w1, w2] else [w1]) :
    Accepts (onQuad n i) w1 w2 := accepts_onlyIf h

theorem accepts_decodeMode {a b c d : Nibble} {w2 : Word} {ea eaInc dadr erm : Option Instr}
    (hea : Accepts ea (packWord a b 0x3#4 d) w2) (hinc : Accepts eaInc (packWord a b 0x5#4 d) w2)
    (hdadr : Accepts dadr (packWord a b 0x1#4 d) w2)
    (herm : isWordReg c = true → Accepts erm (packWord a b c d) w2) :
    Accepts (decodeMode c ea eaInc dadr erm) (packWord a b c d) w2 := by
  unfold decodeMode
  split
  · exact hea
  · exact hinc
  · exact hdadr
  · exact accepts_ite herm fun _ => accepts_none _ w2

theorem accepts_decodeEaMode {a b c d : Nibble} {w2 : Word} {ea eaInc : Option Instr}
    (hea : Accepts ea (packWord a b 0x3#4 d) w2) (hinc : Accepts eaInc (packWord a b 0x5#4 d) w2) :
    Accepts (decodeEaMode c ea eaInc) (packWord a b c d) w2 := by
  unfold decodeEaMode
  split
  · exact hea
  · exact hinc
  · exact accepts_none _ w2

theorem accepts_decode8F (b c : Nibble) (w2 : Word) :
    Accepts (decode8F b c) (packWord 0x8#4 b c 0xF#4) w2 := by
  unfold decode8F
  split
  case h_1 | h_2 | h_3 => exact accepts_some ⟨rfl, rfl⟩
  case h_12 => exact accepts_none _ w2
  all_goals
    refine accepts_onlyIf fun hb => ?_
    obtain rfl := eq_of_beq hb
    exact ⟨rfl, rfl⟩

theorem accepts_decode8 (b c d : Nibble) (w2 : Word) :
    Accepts (decode8 b c d) (packWord 0x8#4 b c d) w2 := by
  unfold decode8
  split
  case h_16 =>
    obtain rfl : d = 0xF#4 := by
      revert d
      decide
    exact accepts_decode8F b c w2
  all_goals exact accepts_some ⟨rfl, rfl⟩

theorem accepts_decode9 (b c d : Nibble) (w2 : Word) :
    Accepts (decode9 b c d w2) (packWord 0x9#4 b c d) w2 := by
  unfold decode9
  split
  case h_1 | h_2 =>
    exact accepts_decodeMode (accepts_some ⟨rfl, rfl⟩) (accepts_some ⟨rfl, rfl⟩)
      (accepts_some ⟨rfl, rfl⟩) fun hc => accepts_some ⟨hc, rfl⟩
  case h_3 | h_4 =>
    exact accepts_decodeMode (accepts_onWord fun hb => ⟨hb, rfl⟩)
      (accepts_onWord fun hb => ⟨hb, rfl⟩) (accepts_onWord fun hb => ⟨hb, rfl⟩)
      fun hc => accepts_onWord fun hb => ⟨Bool.and_eq_true_iff.mpr ⟨hb, hc⟩, rfl⟩
  case h_5 | h_6 =>
    exact accepts_decodeEaMode (accepts_onDouble fun hb => ⟨hb, rfl⟩)
      (accepts_onDouble fun hb => ⟨hb, rfl⟩)
  case h_7 | h_8 =>
    exact accepts_decodeEaMode (accepts_onQuad fun hb => ⟨hb, rfl⟩)
      (accepts_onQuad fun hb => ⟨hb, rfl⟩)
  case h_9 | h_10 => exact accepts_onWord fun hc => ⟨hc, rfl⟩
  case h_16 =>
    obtain rfl : d = 0xF#4 := by
      revert d
      decide
    refine accepts_onlyIf fun hb => ?_
    obtain rfl := eq_of_beq hb
    exact ⟨rfl, rfl⟩
  all_goals
    exact accepts_onlyIf fun hc => ⟨rfl, by simp [encode, Instr.words, clear_append_field3 hc]⟩

/-- A bit instruction's digit C, by its function bit. -/
theorem accepts_decodeBit {a b c d : Nibble} {w2 : Word} {reg mem : Instr}
    (hreg : (!topBit c) = true → reg.wf = true ∧
      encode reg = if reg.words = 2 then [packWord a b c d, w2] else [packWord a b c d])
    (hmem : topBit c = true → mem.wf = true ∧
      encode mem = if mem.words = 2 then [packWord a 0x0#4 c d, w2] else [packWord a 0x0#4 c d]) :
    Accepts (decodeBit b c reg mem) (packWord a b c d) w2 := by
  refine accepts_ite (fun hc => accepts_onlyIf fun hb => ?_) fun hc =>
    accepts_some (hreg (by rw [hc]; rfl))
  obtain rfl := eq_of_beq hb
  exact hmem hc

theorem accepts_decodeA (b c d : Nibble) (w2 : Word) :
    Accepts (decodeA b c d w2) (packWord 0xA#4 b c d) w2 := by
  unfold decodeA
  split
  case h_1 | h_2 | h_3 =>
    exact accepts_decodeBit
      (fun hc => ⟨rfl, by simp [encode, Instr.words, clear_append_field3 hc]⟩)
      fun hc => ⟨rfl, by simp [encode, Instr.words, set_append_field3 hc]⟩
  case h_4 | h_5 | h_8 =>
    refine accepts_onlyIf fun hc => ?_
    obtain rfl := eq_of_beq hc
    exact ⟨rfl, rfl⟩
  case h_6 | h_14 =>
    refine accepts_onlyIf fun h => ?_
    obtain ⟨hc, hb⟩ := Bool.and_eq_true_iff.mp h
    obtain rfl := eq_of_beq hc
    exact ⟨hb, rfl⟩
  case h_7 | h_15 => exact accepts_some ⟨rfl, rfl⟩
  case h_9 | h_10 => exact accepts_onlyIf fun h => ⟨h, rfl⟩
  case h_11 =>
    refine accepts_ite (fun hb => accepts_onlyIf fun hc => ?_) fun _ => accepts_onlyIf fun h => ?_
    · obtain rfl := eq_of_beq hc
      exact ⟨hb, rfl⟩
    · obtain ⟨hb, hc⟩ := Bool.and_eq_true_iff.mp h
      obtain rfl := eq_of_beq hb
      exact ⟨hc, rfl⟩
  case h_12 | h_13 =>
    refine accepts_onlyIf fun hb => ?_
    obtain rfl := eq_of_beq hb
    exact ⟨rfl, rfl⟩
  case h_16 =>
    obtain rfl : d = 0xF#4 := by
      revert d
      decide
    refine accepts_onlyIf fun hb => ?_
    obtain rfl := eq_of_beq hb
    exact ⟨rfl, rfl⟩

theorem accepts_decodeB (b c d : Nibble) (w2 : Word) :
    Accepts (decodeB b c d) (packWord 0xB#4 b c d) w2 := by
  unfold decodeB
  split
  case h_4 =>
    have hc : topTwo c = 0b11#2 := by
      revert c
      decide
    exact accepts_onWord fun hb => ⟨hb, by simp [encode, Instr.words, append_field6 hc]⟩
  all_goals
    next hc => exact accepts_onWord fun hb => ⟨hb, by simp [encode, Instr.words, append_field6 hc]⟩

theorem accepts_decodeD (b c d : Nibble) (w2 : Word) :
    Accepts (decodeD b c d) (packWord 0xD#4 b c d) w2 := by
  unfold decodeD
  split
  case h_4 =>
    have hc : topTwo c = 0b11#2 := by
      revert c
      decide
    exact accepts_some ⟨rfl, by simp [encode, Instr.words, append_field6 hc]⟩
  all_goals
    next hc => exact accepts_some ⟨rfl, by simp [encode, Instr.words, append_field6 hc]⟩

theorem accepts_decodeC (b c d : Nibble) (w2 : Word) :
    Accepts (decodeC b c d) (packWord 0xC#4 b c d) w2 := by
  unfold decodeC
  split
  case h_16 => exact accepts_none _ w2
  all_goals exact accepts_some ⟨rfl, by simp [encode, Instr.words]⟩

theorem accepts_decodeE (b c d : Nibble) (w2 : Word) :
    Accepts (decodeE b c d) (packWord 0xE#4 b c d) w2 := by
  unfold decodeE
  refine accepts_ite (fun hb => accepts_ite (fun hc => ?_) fun hc => ?_) fun _ => ?_
  · exact accepts_some ⟨hb, by simp [encode, Instr.words, set_append_imm7Field hc]⟩
  · exact accepts_some ⟨hb, by simp [encode, Instr.words, clear_append_imm7Field hc]⟩
  split
  case h_1 | h_2 | h_4 => exact accepts_some ⟨rfl, by simp [encode, Instr.words]⟩
  case h_3 =>
    exact accepts_onlyIf fun hc =>
      ⟨rfl, by simp [encode, Instr.words, append_field6 (eq_of_beq hc)]⟩
  case h_5 | h_6 =>
    refine accepts_ite (fun h => accepts_some ?_) fun _ => accepts_onlyIf fun h => ?_
    all_goals
      obtain ⟨hc, hd⟩ := Bool.and_eq_true_iff.mp h
      obtain rfl := eq_of_beq hc
      obtain rfl := eq_of_beq hd
      exact ⟨rfl, rfl⟩
  case h_7 => exact accepts_none _ w2

theorem accepts_decodeFD (b c : Nibble) (w2 : Word) :
    Accepts (decodeFD b c) (packWord 0xF#4 b c 0xD#4) w2 := by
  unfold decodeFD
  split
  case h_1 | h_2 | h_9 | h_10 => exact accepts_some ⟨rfl, rfl⟩
  case h_3 | h_4 | h_11 | h_12 => exact accepts_onWord fun hb => ⟨hb, rfl⟩
  case h_5 | h_6 | h_13 | h_14 => exact accepts_onDouble fun hb => ⟨hb, rfl⟩
  case h_7 | h_8 | h_15 => exact accepts_onQuad fun hb => ⟨hb, rfl⟩
  case h_16 =>
    obtain rfl : c = 0xF#4 := by
      revert c
      decide
    exact accepts_onQuad fun hb => ⟨hb, rfl⟩

theorem accepts_decodePopList (b : Nibble) (w2 : Word) :
    Accepts (decodePopList b) (packWord 0xF#4 b 0x8#4 0xE#4) w2 := by
  unfold decodePopList
  split
  case h_16 => exact accepts_none _ w2
  all_goals exact accepts_some ⟨rfl, rfl⟩

theorem accepts_decodePushList (b : Nibble) (w2 : Word) :
    Accepts (decodePushList b) (packWord 0xF#4 b 0xC#4 0xE#4) w2 := by
  unfold decodePushList
  split
  case h_16 => exact accepts_none _ w2
  all_goals exact accepts_some ⟨rfl, rfl⟩

theorem accepts_decodeFE (b c : Nibble) (w2 : Word) :
    Accepts (decodeFE b c) (packWord 0xF#4 b c 0xE#4) w2 := by
  unfold decodeFE
  split
  case h_1 | h_5 => exact accepts_some ⟨rfl, rfl⟩
  case h_2 | h_6 => exact accepts_onWord fun hb => ⟨hb, rfl⟩
  case h_3 | h_7 => exact accepts_onDouble fun hb => ⟨hb, rfl⟩
  case h_4 | h_8 => exact accepts_onQuad fun hb => ⟨hb, rfl⟩
  case h_9 => exact accepts_decodePopList b w2
  case h_10 => exact accepts_decodePushList b w2
  case h_11 => exact accepts_none _ w2

theorem accepts_decodeFEF (c : Nibble) (w2 : Word) :
    Accepts (decodeFEF c) (packWord 0xF#4 0xE#4 c 0xF#4) w2 := by
  unfold decodeFEF
  split
  case h_8 => exact accepts_none _ w2
  all_goals exact accepts_some ⟨rfl, rfl⟩

theorem accepts_decodeF (b c d : Nibble) (w2 : Word) :
    Accepts (decodeF b c d w2) (packWord 0xF#4 b c d) w2 := by
  unfold decodeF
  split
  case h_1 | h_2 =>
    refine accepts_onlyIf fun hc => ?_
    obtain rfl := eq_of_beq hc
    exact ⟨rfl, rfl⟩
  case h_3 | h_4 | h_10 | h_11 =>
    refine accepts_onlyIf fun h => ?_
    obtain ⟨hb, hc⟩ := Bool.and_eq_true_iff.mp h
    obtain rfl := eq_of_beq hb
    exact ⟨hc, rfl⟩
  case h_5 | h_9 => exact accepts_onWord fun hb => ⟨hb, rfl⟩
  case h_6 | h_7 | h_8 => exact accepts_onlyIf fun h => ⟨h, rfl⟩
  case h_12 =>
    refine accepts_onlyIf fun h => ?_
    obtain ⟨hb, hc⟩ := Bool.and_eq_true_iff.mp h
    obtain rfl := eq_of_beq hb
    obtain rfl := eq_of_beq hc
    exact ⟨rfl, rfl⟩
  case h_13 => exact accepts_decodeFD b c w2
  case h_14 => exact accepts_decodeFE b c w2
  case h_15 =>
    refine accepts_ite (fun hb => ?_) fun _ => accepts_onlyIf fun h => ?_
    · obtain rfl := eq_of_beq hb
      exact accepts_decodeFEF c w2
    · obtain ⟨hb, hc⟩ := Bool.and_eq_true_iff.mp h
      obtain rfl := eq_of_beq hb
      obtain rfl := eq_of_beq hc
      exact ⟨rfl, rfl⟩
  case h_16 => exact accepts_none _ w2

theorem accepts_decodeDigits (a b c d : Nibble) (w2 : Word) :
    Accepts (decodeDigits a b c d w2) (packWord a b c d) w2 := by
  unfold decodeDigits
  split
  case h_9 => exact accepts_decode8 b c d w2
  case h_10 => exact accepts_decode9 b c d w2
  case h_11 => exact accepts_decodeA b c d w2
  case h_12 => exact accepts_decodeB b c d w2
  case h_13 => exact accepts_decodeC b c d w2
  case h_14 => exact accepts_decodeD b c d w2
  case h_15 => exact accepts_decodeE b c d w2
  case h_16 =>
    obtain rfl : a = 0xF#4 := by
      revert a
      decide
    exact accepts_decodeF b c d w2
  all_goals exact accepts_some ⟨rfl, by simp [encode, Instr.words]⟩

theorem accepts_decodeWords (w1 w2 : Word) : Accepts (decodeWords w1 w2) w1 w2 := by
  have h := accepts_decodeDigits (digitA w1) (digitB w1) (digitC w1) (digitD w1) w2
  rwa [packWord_digits] at h

/-- Settles O2: each table of the opcode map accepts only what the encoder writes to its words. -/
theorem decodedWordsEncodeBackToThemselves : Obligations.DecodedWordsEncodeBackToThemselves :=
  accepts_decodeWords

/-! ## What the encoder writes is what the decoder reads -/

/-- The decoder reads `i` from its words; after a one-word instruction the second word is not
looked at. -/
def ReadsBack (i : Instr) : Prop :=
  match encode i with
  | [w1] => ∀ w2, decodeWords w1 w2 = some i
  | [w1, w2] => decodeWords w1 w2 = some i
  | _ => False

/-- None of the digits 1, 3 and 5 that `decodeMode` lists names a word register. -/
theorem decodeMode_of_isWordReg {c : Nibble} (h : isWordReg c = true)
    (ea eaInc dadr erm : Option Instr) : decodeMode c ea eaInc dadr erm = erm := by
  unfold decodeMode
  split
  case h_4 => exact if_pos h
  all_goals cases h

theorem decodeBit_memory (bit : BitVec 3) (reg mem : Instr) :
    decodeBit 0x0#4 (0b1#1 ++ bit) reg mem = some mem := by
  rw [decodeBit, topBit_append]
  rfl

theorem decodeE_swi (snum : BitVec 6) :
    decodeE 0x5#4 (0b00#2 ++ snum.extractLsb' 4 2) (snum.extractLsb' 0 4) = some (.swi snum) := by
  show onlyIf (topTwo _ == 0b00#2) (.swi (field6 _ _)) = _
  rw [topTwo_append, field6_cut]
  rfl

/-- One row of the table for each instruction: the decoder puts cut fields together again, and
checks the register numbers that well-formed instructions have. -/
theorem readsBack {i : Instr} (h : i.wf = true) : ReadsBack i := by
  cases i
  all_goals simp only [ReadsBack, encode, decodeWords_packWord]
  case addRnImm8 | movRnImm8 | addcRnImm8 | cmpRnImm8 | cmpcRnImm8 | andRnImm8 | orRnImm8 |
      xorRnImm8 | bge | blt | bgt | ble | bges | blts | bgts | bles | bne | beq | bnv | bov | bps |
      bns | bal =>
    simp only [decodeDigits, decodeC, imm8Field_hiNibble_loNibble, implies_true]
  case dsrPrefixSeg imm =>
    exact fun _ => congrArg (some ∘ Instr.dsrPrefixSeg) (imm8Field_hiNibble_loNibble imm)
  case addSpSigned8 imm => exact fun _ => decodeE_addSp imm
  case movPswUnsigned8 imm =>
    exact fun _ => congrArg (some ∘ Instr.movPswUnsigned8) (imm8Field_hiNibble_loNibble imm)
  case movErnImm7 | addErnImm7 => exact fun _ => decodeE_of_isWordReg h _ _
  case swi snum => exact fun _ => decodeE_swi snum
  case lRnDisp6Bp | lRnDisp6Fp | stRnDisp6Bp =>
    simp only [decodeDigits, decodeD, topTwo_append, field6_cut, implies_true]
  case stRnDisp6Fp =>
    simp only [decodeDigits, decodeD, topTwo_append, field6_cut]
    exact fun _ => rfl
  case lErnDisp6Bp | lErnDisp6Fp | stErnDisp6Bp | stErnDisp6Fp =>
    simp only [decodeDigits, decodeB, topTwo_append, field6_cut]
    exact fun _ => if_pos h
  case sllRnWidth | srlRnWidth | sllcRnWidth | srlcRnWidth | sraRnWidth =>
    simp only [decodeDigits, decode9, onlyIf_widthDigit, field3_append, implies_true]
  case sbRnBit | rbRnBit | tbRnBit =>
    simp only [decodeDigits, decodeA, decodeBit_register, field3_append, implies_true]
  case sbDbitadr | rbDbitadr | tbDbitadr =>
    simp only [decodeDigits, decodeA, decodeBit_memory, field3_append]
  case lErnErm | stErnErm =>
    obtain ⟨hn, hm⟩ := Bool.and_eq_true_iff.mp h
    exact fun _ => (decodeMode_of_isWordReg hm _ _ _ _).trans (if_pos hn)
  case lRnErm | stRnErm => exact fun _ => decodeMode_of_isWordReg h _ _ _ _
  case movErnErm | addErnErm | cmpErnErm | lErnEa | lErnEaInc | lXrnEa | lXrnEaInc | lQrnEa |
      lQrnEaInc | stErnEa | stErnEaInc | stXrnEa | stXrnEaInc | stQrnEa | stQrnEaInc | mulErnRm |
      divErnRm | movElrErm | movErnElr | movErnSp | movSpErm | pushErn | pushXrn | pushQrn |
      popErn | popXrn | popQrn | movCernEa | movCernEaInc | movCxrnEa | movCxrnEaInc | movCqrnEa |
      movCqrnEaInc | movEaCerm | movEaIncCerm | movEaCxrm | movEaIncCxrm | movEaCqrm |
      movEaIncCqrm | leaErm | bErn | blErn =>
    exact fun _ => if_pos h
  case leaDisp16Erm | lErnDisp16Erm | stErnDisp16Erm | lRnDisp16Erm | stRnDisp16Erm | lErnDadr |
      stErnDadr =>
    exact if_pos h
  case lRnDadr | stRnDadr | leaDadr | bCadr | blCadr => rfl
  all_goals exact fun _ => rfl

/-! ## The first word alone decides how long an instruction is (spec/30_encoding.md R90) -/

theorem onlyIf_words {i j : Instr} (h : i.words = j.words) (b : Bool) :
    (onlyIf b i).map Instr.words = (onlyIf b j).map Instr.words := by
  cases b
  · rfl
  · exact congrArg some h

theorem onWord_words {i j : Instr} (h : i.words = j.words) (n : RegNo) :
    (onWord n i).map Instr.words = (onWord n j).map Instr.words := onlyIf_words h (isWordReg n)

theorem decodeMode_words {c : Nibble} {ea eaInc dadr dadr' erm : Option Instr}
    (h : dadr.map Instr.words = dadr'.map Instr.words) :
    (decodeMode c ea eaInc dadr erm).map Instr.words =
      (decodeMode c ea eaInc dadr' erm).map Instr.words := by
  unfold decodeMode
  split
  case h_3 => exact h
  all_goals rfl

theorem decodeBit_words {b c : Nibble} {reg mem mem' : Instr} (h : mem.words = mem'.words) :
    (decodeBit b c reg mem).map Instr.words = (decodeBit b c reg mem').map Instr.words := by
  unfold decodeBit
  split
  · exact onlyIf_words h _
  · rfl

theorem decode9_words (b c d : Nibble) (w w' : Word) :
    (decode9 b c d w).map Instr.words = (decode9 b c d w').map Instr.words := by
  unfold decode9
  split
  case h_1 | h_2 => exact decodeMode_words rfl
  case h_3 | h_4 => exact decodeMode_words (onWord_words (by rfl) b)
  case h_9 | h_10 => exact onWord_words (by rfl) c
  all_goals rfl

theorem decodeA_words (b c d : Nibble) (w w' : Word) :
    (decodeA b c d w).map Instr.words = (decodeA b c d w').map Instr.words := by
  unfold decodeA
  split
  case h_1 | h_2 | h_3 => exact decodeBit_words rfl
  case h_9 | h_10 => exact onlyIf_words (by rfl) _
  all_goals rfl

theorem decodeF_words (b c d : Nibble) (w w' : Word) :
    (decodeF b c d w).map Instr.words = (decodeF b c d w').map Instr.words := by
  unfold decodeF
  split
  case h_1 | h_2 | h_11 | h_12 => exact onlyIf_words (by rfl) _
  all_goals rfl

theorem decodeWords_words (w1 w2 w2' : Word) :
    (decodeWords w1 w2).map Instr.words = (decodeWords w1 w2').map Instr.words := by
  unfold decodeWords decodeDigits
  split
  case h_10 => exact decode9_words _ _ _ w2 w2'
  case h_11 => exact decodeA_words _ _ _ w2 w2'
  case h_16 => exact decodeF_words _ _ _ w2 w2'
  all_goals rfl

/-- Whatever the second word is, a listed first word is read as an instruction of the same length.
-/
theorem decodeWords_of_some {w1 w2 : Word} {i : Instr} (h : decodeWords w1 w2 = some i)
    (w2' : Word) : ∃ j, decodeWords w1 w2' = some j ∧ j.words = i.words := by
  have hw := decodeWords_words w1 w2' w2
  rw [h] at hw
  exact Option.map_eq_some_iff.mp hw

theorem length_encode (i : Instr) : (encode i).length = i.words := by
  cases i <;> rfl

/-- A well-formed instruction has one word, which alone is read as it, or two. -/
theorem encode_cases {i : Instr} (h : i.wf = true) :
    (∃ w1, encode i = [w1] ∧ i.words = 1 ∧ ∀ w2, decodeWords w1 w2 = some i) ∨
      ∃ w1 w2, encode i = [w1, w2] ∧ i.words = 2 ∧ decodeWords w1 w2 = some i := by
  have hlen := length_encode i
  have hread := readsBack h
  unfold ReadsBack at hread
  split at hread
  case h_1 w1 he => exact .inl ⟨w1, he, by rw [← hlen, he]; rfl, hread⟩
  case h_2 w1 w2 he => exact .inr ⟨w1, w2, he, by rw [← hlen, he]; rfl, hread⟩
  case h_3 => exact hread.elim

theorem takeWord_wordBytes (w : Word) (ws : List Word) (rest : List Byte) :
    takeWord (wordBytes (w :: ws) ++ rest) = some (w, wordBytes ws ++ rest) := by
  simp only [wordBytes, List.cons_append, takeWord, mkWord_hi_lo]

/-- Settles O1: the decoder's first look at the first word gives the length, its second the
instruction. -/
theorem decodingAnEncodedInstructionGivesItBack :
    Obligations.DecodingAnEncodedInstructionGivesItBack := by
  intro i rest h
  rcases encode_cases h with ⟨w1, he, hw, hd⟩ | ⟨w1, w2, he, hw, hd⟩
  · simp only [decode, encodeBytes, he, takeWord_wordBytes, hd, hw, if_true]
    rfl
  · obtain ⟨j, hj, hjw⟩ := decodeWords_of_some hd 0x0000#16
    simp only [decode, encodeBytes, he, takeWord_wordBytes, hj, hjw, hw, hd]
    rfl

end Sys2Proof.Machine
end

section
/-! PROOFS. What every instruction keeps, said once for each operation the meanings are written
over: the parameters, code memory, the segment registers and the invariant, and how it leaves the
latches. -/

namespace Sys2Proof.Machine

/-! ## Outcomes -/

/-- If `x` goes on, its value satisfies `P`; if `x` is refused, it is not as an unlisted word. -/
def Runs {α : Type} (x : Res α) (P : α → Prop) : Prop :=
  match x with
  | .next a => P a
  | .fault _ => True
  | .refused why => ∀ w, why ≠ .unlistedEncoding w

theorem Runs.andThen {α β : Type} {x : Res α} {f : α → Res β} {P : α → Prop} {Q : β → Prop}
    (hx : Runs x P) (hf : ∀ a, P a → Runs (f a) Q) : Runs (andThen x f) Q := by
  cases x with
  | next a => exact hf a hx
  | fault e => trivial
  | refused e => exact hx

theorem Runs.mono {α : Type} {x : Res α} {P Q : α → Prop} (hx : Runs x P) (h : ∀ a, P a → Q a) :
    Runs x Q := by
  cases x with
  | next a => exact h a hx
  | fault e => trivial
  | refused e => exact hx

theorem Runs.ite {α : Type} {c : Prop} [Decidable c] {x y : Res α} {P : α → Prop}
    (hx : c → Runs x P) (hy : ¬c → Runs y P) : Runs (if c then x else y) P := by
  split
  · next h => exact hx h
  · next h => exact hy h

/-! ## What an instruction keeps -/

/-- The invariant without its clause on the latches, which hold between instructions only. -/
structure Sound (s : State) : Prop where
  codeWf : s.code.wf = true
  codeBelow : s.code.below 65536 = true
  dataWf : s.data.wf = true
  dataBelow : s.data.below 16777216 = true
  pcEven : s.pc.getLsbD 0 = false
  lrEven : s.lr.getLsbD 0 = false
  elr1Even : s.elr1.getLsbD 0 = false
  elr2Even : s.elr2.getLsbD 0 = false
  elr3Even : s.elr3.getLsbD 0 = false
  smallCsr : s.cfg.model = .small → s.csr = 0x0#4
  smallLcsr : s.cfg.model = .small → s.lcsr = 0x0#4
  smallEcsr1 : s.cfg.model = .small → s.ecsr1 = 0x0#4
  smallEcsr2 : s.cfg.model = .small → s.ecsr2 = 0x0#4
  smallEcsr3 : s.cfg.model = .small → s.ecsr3 = 0x0#4
  window : s.eiWindow ≤ 2

theorem inv_iff (s : State) : Inv s ↔ Sound s ∧ (s.dsrPrefix = true → s.intBlock = true) :=
  ⟨fun h => ⟨{ h with }, h.prefixBlocks⟩, fun ⟨h, hp⟩ => { h with prefixBlocks := hp }⟩

/-- What holds from the start to any point inside an instruction that leaves the segments alone. -/
structure Calm (s t : State) : Prop where
  cfg : t.cfg = s.cfg
  code : t.code = s.code
  csr : t.csr = s.csr
  dsr : t.dsr = s.dsr
  sound : Sound s → Sound t

theorem Calm.refl (s : State) : Calm s s := ⟨rfl, rfl, rfl, rfl, id⟩

theorem Calm.trans {s t u : State} (h : Calm s t) (h' : Calm t u) : Calm s u :=
  ⟨h'.cfg.trans h.cfg, h'.code.trans h.code, h'.csr.trans h.csr, h'.dsr.trans h.dsr,
    h'.sound ∘ h.sound⟩

/-- None of these fields is a segment register, code memory or part of the invariant. -/
theorem calm_update (s : State) (regs cregs : Vector (BitVec 8) 16) (psw : Byte) (sp ea ar : Word)
    (dsrPrefix intBlock : Bool) (deviceLog : List DeviceEvent) (inputs : List Inputs)
    (ack : Option Ack) (draws : Nat) :
    Calm s { s with regs := regs, cregs := cregs, psw := psw, sp := sp, ea := ea, ar := ar,
                    dsrPrefix := dsrPrefix, intBlock := intBlock, deviceLog := deviceLog,
                    inputs := inputs, ack := ack, draws := draws } :=
  ⟨rfl, rfl, rfl, rfl, fun h => { h with }⟩

/-- EI opens the window after it to its full length (spec/70_reset_and_hazards.md R420). -/
theorem calm_openWindow (s : State) (psw : Byte) : Calm s { s with psw := psw, eiWindow := 2 } :=
  ⟨rfl, rfl, rfl, rfl, fun h => { h with window := le_refl 2 }⟩

theorem calm_setLr (s : State) (v : Word) : Calm s (s.setLr v) :=
  ⟨rfl, rfl, rfl, rfl, fun h => { h with lrEven := evenAddr_getLsbD_zero v }⟩

theorem calm_setLinkSeg (s : State) (v : Nibble) : Calm s (s.setLinkSeg v) :=
  ⟨rfl, rfl, rfl, rfl, fun h =>
    { h with smallLcsr := fun hm => (segWrite_small hm _ _).trans (h.smallLcsr hm) }⟩

theorem calm_setElr (s : State) (k : Bank) (v : Word) : Calm s (s.setElr k v) := by
  have heven := evenAddr_getLsbD_zero v
  cases k with
  | one => exact ⟨rfl, rfl, rfl, rfl, fun h => { h with elr1Even := heven }⟩
  | two => exact ⟨rfl, rfl, rfl, rfl, fun h => { h with elr2Even := heven }⟩
  | three => exact ⟨rfl, rfl, rfl, rfl, fun h => { h with elr3Even := heven }⟩

theorem calm_setEcsr (s : State) (k : Bank) (v : Nibble) : Calm s (s.setEcsr k v) := by
  cases k with
  | one =>
    exact ⟨rfl, rfl, rfl, rfl, fun h =>
      { h with smallEcsr1 := fun hm => (segWrite_small hm _ _).trans (h.smallEcsr1 hm) }⟩
  | two =>
    exact ⟨rfl, rfl, rfl, rfl, fun h =>
      { h with smallEcsr2 := fun hm => (segWrite_small hm _ _).trans (h.smallEcsr2 hm) }⟩
  | three =>
    exact ⟨rfl, rfl, rfl, rfl, fun h =>
      { h with smallEcsr3 := fun hm => (segWrite_small hm _ _).trans (h.smallEcsr3 hm) }⟩

theorem calm_setEpsw (s : State) (k : Bank) (v : Byte) : Calm s (s.setEpsw k v) := by
  cases k <;> exact ⟨rfl, rfl, rfl, rfl, fun h => { h with }⟩

theorem calm_setRBytes (s : State) (n : RegNo) (bs : List Byte) : Calm s (s.setRBytes n bs) := by
  rw [setRBytes_eq]
  exact calm_update ..

theorem calm_setCrBytes (s : State) (n : RegNo) (bs : List Byte) : Calm s (s.setCrBytes n bs) := by
  rw [setCrBytes_eq]
  exact calm_update ..

/-- How an instruction ends that leaves the latches as `blocked`; CSR changes only if `csr` and DSR
only if `dsr`. -/
structure Ends (s : State) (csr dsr : Prop) (latch blocked : Bool) (t : State) : Prop where
  cfg : t.cfg = s.cfg
  code : t.code = s.code
  csr : t.csr ≠ s.csr → csr
  dsr : t.dsr ≠ s.dsr → dsr
  dsrPrefix : t.dsrPrefix = latch
  intBlock : t.intBlock = blocked
  sound : Sound s → Sound t

/-- What follows a calm beginning ends as from the start. -/
theorem Calm.ends {s u t : State} {P Q : Prop} {p b : Bool} (h : Calm s u)
    (ht : Ends u P Q p b t) : Ends s P Q p b t where
  cfg := ht.cfg.trans h.cfg
  code := ht.code.trans h.code
  csr := h.csr ▸ ht.csr
  dsr := h.dsr ▸ ht.dsr
  dsrPrefix := ht.dsrPrefix
  intBlock := ht.intBlock
  sound := ht.sound ∘ h.sound

theorem Calm.jump {s u : State} {P Q : Prop} (h : Calm s u) (target : Word) :
    Ends s P Q false false (u.jump target) :=
  h.ends ⟨rfl, rfl, fun hne => absurd rfl hne, fun hne => absurd rfl hne, rfl, rfl,
    fun hs => { hs with pcEven := evenAddr_getLsbD_zero target }⟩

theorem Calm.advance {s u : State} {P Q : Prop} (h : Calm s u) (words : Nat) :
    Ends s P Q false false (u.advance words) :=
  h.ends ⟨rfl, rfl, fun hne => absurd rfl hne, fun hne => absurd rfl hne, rfl, rfl,
    fun hs => { hs with pcEven := evenAddr_getLsbD_zero _ }⟩

/-- A jump that writes CSR too. -/
theorem Calm.jump_setCodeSeg {s u : State} {P Q : Prop} (h : Calm s u) (hP : P) (seg : Nibble)
    (psw : Byte) (target : Word) :
    Ends s P Q false false (State.jump { u.setCodeSeg seg with psw := psw } target) :=
  h.ends ⟨rfl, rfl, fun _ => hP, fun hne => absurd rfl hne, rfl, rfl, fun hs =>
    { hs with
      pcEven := evenAddr_getLsbD_zero target
      smallCsr := fun hm => (segWrite_small hm _ _).trans (hs.smallCsr hm) }⟩

/-! ## One byte, and ranges of bytes -/

theorem codeByte_runs (s : State) (seg : Nibble) (off : Word) :
    Runs (s.codeByte seg off) fun _ => True := Runs.ite (fun _ => trivial) fun _ => trivial

theorem codeRead16_runs (s : State) (seg : Nibble) (off : Word) :
    Runs (s.codeRead16 seg off) fun _ => True :=
  (codeByte_runs s seg _).andThen fun _ _ => (codeByte_runs s seg _).andThen fun _ _ => trivial

theorem readByte_runs (s : State) (seg : Byte) (off : Word) :
    Runs (s.readByte seg off) fun _ => True := by
  unfold State.readByte
  split
  case h_1 => exact codeByte_runs s 0x0#4 off
  all_goals trivial

theorem calm_afterRead (s : State) (seg : Byte) (off : Word) : Calm s (s.afterRead seg off) :=
  calm_update ..

theorem writeByte_runs (s : State) (seg : Byte) (off : Word) (v : Byte) :
    Runs (s.writeByte seg off v) (Calm s) := by
  cases h : s.writeByte seg off v with
  | next t =>
    have ht := (writeByte_eq_next.mp h).2
    refine ⟨by rw [ht], by rw [ht], by rw [ht], by rw [ht], fun hs => ?_⟩
    obtain ⟨hwf, hbelow⟩ := writeByte_memory h hs.dataWf hs.dataBelow
    rw [ht] at hwf hbelow ⊢
    exact { hs with dataWf := hwf, dataBelow := hbelow }
  | fault e => trivial
  | refused e =>
    unfold State.writeByte at h
    split at h <;> cases h <;> nofun

theorem readBytes_runs (s : State) (seg : Byte) (a : Word) (n : Nat) :
    Runs (s.readBytes seg a n) fun r => Calm s r.2 := by
  induction n generalizing s a with
  | zero => exact Calm.refl s
  | succ n ih =>
    refine (readByte_runs s seg a).andThen fun _ _ => (ih (s.afterRead seg a) _).andThen ?_
    exact fun _ h => (calm_afterRead s seg a).trans h

theorem writeBytes_runs (s : State) (seg : Byte) (a : Word) (bs : List Byte) :
    Runs (s.writeBytes seg a bs) (Calm s) := by
  induction bs generalizing s a with
  | nil => exact Calm.refl s
  | cons b bs ih =>
    exact (writeByte_runs s seg a b).andThen fun t h => (ih t _).mono fun _ h' => h.trans h'

/-! ## The ends of instructions -/

section
variable {s u : State} {P Q : Prop}

theorem finishR_runs (h : Calm s u) (n : RegNo) (v psw : Byte) :
    Runs (finishR u n v psw) (Ends s P Q false false) :=
  Calm.advance (h.trans (calm_update ..)) 1

theorem finishEr_runs (h : Calm s u) (n : RegNo) (v : Word) (psw : Byte) :
    Runs (finishEr u n v psw) (Ends s P Q false false) :=
  Calm.advance (h.trans (calm_update ..)) 1

theorem finishPsw_runs (s : State) (psw : Byte) :
    Runs (finishPsw s psw) (Ends s P Q false false) :=
  Calm.advance (calm_update ..) 1

theorem finishShift_runs (s : State) (n : RegNo) (k : Nat) (v : Byte) (last : Bool) :
    Runs (finishShift s n k v last) (Ends s P Q false false) :=
  Runs.ite (fun _ => (Calm.refl s).advance 1) fun _ => finishR_runs (Calm.refl s) ..

theorem loadRegs_runs (s : State) (n : RegNo) (size : Nat) (off ea' : Word) (words : Nat) :
    Runs (loadRegs s n size off ea' words) (Ends s P Q false false) :=
  (readBytes_runs ..).andThen fun _ h =>
    Calm.advance ((h.trans (calm_setRBytes ..)).trans (calm_update ..)) words

theorem loadCregs_runs (s : State) (n : RegNo) (size : Nat) (ea' : Word) :
    Runs (loadCregs s n size ea') (Ends s P Q false false) :=
  (readBytes_runs ..).andThen fun _ h =>
    Calm.advance ((h.trans (calm_setCrBytes ..)).trans (calm_update ..)) 1

theorem storeBytes_runs (s : State) (bs : List Byte) (off ea' : Word) (words : Nat) :
    Runs (storeBytes s bs off ea' words) (Ends s P Q false false) :=
  (writeBytes_runs ..).andThen fun _ h => Calm.advance (h.trans (calm_update ..)) words

theorem modifyByte_runs (s : State) (off : Word) (f psw' : Byte → Byte) (words : Nat) :
    Runs (modifyByte s off f psw' words) (Ends s P Q false false) :=
  (readByte_runs ..).andThen fun _ _ => (writeByte_runs ..).andThen fun _ h =>
    Calm.advance (((calm_afterRead ..).trans h).trans (calm_update ..)) words

theorem branchOn_runs (k : Cond) (radr : Byte) (s : State) :
    Runs (branchOn k radr s) (Ends s P Q false false) :=
  Runs.ite (fun _ => (Calm.refl s).jump _) fun _ => (Calm.refl s).advance 1

theorem writePsw_runs (v : Byte) (s : State) :
    Runs (writePsw v s) (Ends s P Q false false) := by
  refine Runs.andThen (P := fun _ => True) (Runs.ite (fun _ => trivial) fun _ => ?_) fun _ _ =>
    Runs.ite (fun _ => nofun) fun _ => finishPsw_runs s v
  exact (codeRead16_runs ..).andThen fun _ _ => Runs.ite (fun _ => trivial) fun _ => nofun

theorem onBank_runs {atZero : Res State} {f : Bank → Res State} {R : State → Prop}
    (h : Runs atZero R) (hf : ∀ k, Runs (f k) R) : Runs (onBank s atZero f) R := by
  unfold onBank
  split
  · exact h
  · exact Runs.ite (fun _ => hf _) fun _ => nofun

theorem finishPrefix_runs {dsr : Byte} (hQ : dsr ≠ s.dsr → Q) :
    Runs (finishPrefix s dsr) (Ends s P Q true true) :=
  Runs.ite (fun _ => nofun) fun _ =>
    ⟨rfl, rfl, fun hne => absurd rfl hne, hQ, rfl, rfl,
      fun hs => { hs with pcEven := evenAddr_getLsbD_zero _ }⟩

end

/-! ## The stack -/

theorem stackReady_runs (s : State) : Runs (stackReady s) (Calm s) :=
  Runs.ite (fun _ => nofun) fun _ => Runs.ite (fun _ => nofun) fun _ => Calm.refl s

theorem pushBytes_runs (s : State) (bs : List Byte) : Runs (pushBytes s bs) (Calm s) :=
  (writeBytes_runs ..).andThen fun _ h => h.trans (calm_update ..)

theorem pushByte_runs (s : State) (v : Byte) : Runs (pushByte s v) (Calm s) :=
  (writeByte_runs ..).andThen fun _ h => (writeByte_runs ..).andThen fun _ h' =>
    (h.trans h').trans (calm_update ..)

theorem pushCodeAddr_runs (s : State) (off : Word) (seg : Nibble) :
    Runs (pushCodeAddr s off seg) (Calm s) :=
  Runs.ite
    (fun _ => (writeByte_runs ..).andThen fun _ h => (writeByte_runs ..).andThen fun _ h' =>
      (writeBytes_runs ..).andThen fun _ h'' => ((h.trans h').trans h'').trans (calm_update ..))
    fun _ => pushBytes_runs s _

theorem selectBank_runs (s : State) {why : Refusal} (h : ∀ w, why ≠ .unlistedEncoding w) :
    Runs (selectBank s why) fun _ => True := by
  unfold selectBank
  split
  · exact h
  · exact Runs.ite (fun _ => trivial) fun _ => nofun

theorem whenListed_runs {op : State → Res State} (h : ∀ s, Runs (op s) (Calm s)) (listed : Bool)
    (s : State) : Runs (whenListed listed op s) (Calm s) :=
  Runs.ite (fun _ => h s) fun _ => Calm.refl s

theorem pushList_runs {P Q : Prop} (lr epsw elr ea : Bool) (s : State) :
    Runs (pushList lr epsw elr ea s) (Ends s P Q false false) := by
  have helr : ∀ s, Runs (pushElrItem s) (Calm s) := fun s =>
    (selectBank_runs s (why := .backupAtLevelZero) nofun).andThen fun _ _ => pushCodeAddr_runs ..
  have hepsw : ∀ s, Runs (pushEpswItem s) (Calm s) := fun s =>
    (selectBank_runs s (why := .backupAtLevelZero) nofun).andThen fun _ _ => pushByte_runs ..
  have hlr : ∀ s, Runs (pushLrItem s) (Calm s) := fun s => pushCodeAddr_runs ..
  have hea : ∀ s, Runs (pushEaItem s) (Calm s) := fun s => pushBytes_runs ..
  exact (stackReady_runs s).andThen fun _ h0 =>
    (whenListed_runs helr elr _).andThen fun _ h1 =>
    (whenListed_runs hepsw epsw _).andThen fun _ h2 =>
    (whenListed_runs hlr lr _).andThen fun _ h3 =>
    (whenListed_runs hea ea _).andThen fun _ h4 =>
    Calm.advance ((((h0.trans h1).trans h2).trans h3).trans h4) 1

theorem popCodeAddr_runs (s : State) {use : State → Word → Nibble → State} {R : State → Prop}
    (h : ∀ u off seg, Calm s u → R (use u off seg)) : Runs (popCodeAddr s use) R :=
  (readBytes_runs ..).andThen fun _ hr => Runs.ite
    (fun _ => (readByte_runs ..).andThen fun _ _ =>
      h _ _ _ ((hr.trans (calm_afterRead ..)).trans (calm_update ..)))
    fun _ => h _ _ _ (hr.trans (calm_update ..))

theorem popList_runs {P Q : Prop} (lr psw pc ea : Bool) (hP : pc = true → P) (s : State) :
    Runs (popList lr psw pc ea s) (Ends s P Q false false) := by
  have hea : ∀ s, Runs (popEaItem s) (Calm s) := fun s =>
    (readBytes_runs ..).andThen fun _ h => h.trans (calm_update ..)
  have hlr : ∀ s, Runs (popLrItem s) (Calm s) := fun s => popCodeAddr_runs s fun u _ _ h =>
    (h.trans (calm_setLinkSeg ..)).trans (calm_setLr ..)
  have hpsw : ∀ s, Runs (popPswItem s) (Calm s) := fun s =>
    (readByte_runs ..).andThen fun _ _ => calm_update ..
  exact (stackReady_runs s).andThen fun _ h0 =>
    (whenListed_runs hea ea _).andThen fun _ h1 =>
    (whenListed_runs hlr lr _).andThen fun _ h2 =>
    (whenListed_runs hpsw psw _).andThen fun s3 h3 => by
      have h := ((h0.trans h1).trans h2).trans h3
      exact Runs.ite
        (fun hpc => popCodeAddr_runs s3 fun u off seg hu =>
          (h.trans hu).jump_setCodeSeg (hP hpc) ..)
        fun _ => h.advance 1

theorem pushRegs_runs {P Q : Prop} (n : RegNo) (k : Nat) (s : State) :
    Runs (pushRegs n k s) (Ends s P Q false false) :=
  (stackReady_runs s).andThen fun _ h => (pushBytes_runs ..).andThen fun _ h' =>
    (h.trans h').advance 1

theorem popRegs_runs {P Q : Prop} (n : RegNo) (k : Nat) (size : Word) (s : State) :
    Runs (popRegs n k size s) (Ends s P Q false false) :=
  (stackReady_runs s).andThen fun _ h => (readBytes_runs ..).andThen fun _ h' =>
    Calm.advance (((h.trans h').trans (calm_update ..)).trans (calm_setRBytes ..)) 1

/-! ## Exceptions -/

/-- The entry of an exception leaves `dsrPrefix` as it finds it. -/
theorem enterException_runs {P Q : Prop} (hP : P) (s : State) (k : Bank) (ret vector : Word)
    (clearMie : Bool) :
    Runs (enterException s k ret vector clearMie) (Ends s P Q s.dsrPrefix true) := by
  refine (codeRead16_runs ..).andThen fun target _ => ?_
  have h := ((calm_setElr s k ret).trans (calm_setEcsr _ k s.codeSeg)).trans
    (calm_setEpsw _ k s.psw)
  exact h.ends
    { cfg := rfl, code := rfl, csr := fun _ => hP, dsr := fun hne => absurd rfl hne
      dsrPrefix := by simp
      intBlock := rfl
      sound := fun hs =>
        { hs with
          pcEven := evenAddr_getLsbD_zero target
          smallCsr := fun hm => (segWrite_small hm _ _).trans (hs.smallCsr hm) } }

theorem returnFromException_runs {P Q : Prop} (hP : P) (s : State) :
    Runs (returnFromException s) (Ends s P Q false false) :=
  (selectBank_runs s (why := .rtiAtLevelZero) nofun).andThen fun _ _ =>
    (Calm.refl s).jump_setCodeSeg hP ..

theorem systemReset_runs {P Q : Prop} (hP : P) (hQ : Q) (s : State) :
    Runs (systemReset s) (Ends s P Q false true) :=
  by
  unfold systemReset
  refine (codeRead16_runs ..).andThen fun spInit _ =>
    (codeRead16_runs ..).andThen fun pcInit _ => ?_
  exact Ends.mk rfl rfl (fun _ => hP) (fun _ => hQ) rfl rfl fun hs =>
    { codeWf := hs.codeWf
      codeBelow := hs.codeBelow
      dataWf := hs.dataWf
      dataBelow := hs.dataBelow
      pcEven := evenAddr_getLsbD_zero _
      lrEven := evenAddr_getLsbD_zero _
      elr1Even := evenAddr_getLsbD_zero _
      elr2Even := evenAddr_getLsbD_zero _
      elr3Even := evenAddr_getLsbD_zero _
      smallCsr := fun _ => rfl
      smallLcsr := fun hm => segRead_small (s := s) hm _
      smallEcsr1 := fun hm => segRead_small (s := s) hm _
      smallEcsr2 := fun hm => segRead_small (s := s) hm _
      smallEcsr3 := fun hm => segRead_small (s := s) hm _
      window := Nat.zero_le 2 }

/-! ## Every instruction -/

/-- The instructions after which requests wait for one instruction more. -/
def setsBlock (i : Instr) : Bool :=
  match i with
  | .swi _ => true
  | .brk => true
  | _ => isPrefixWord i

/-- The instructions that may change CSR. -/
def MovesCodeSegment (i : Instr) : Prop :=
  (∃ g c, i = .bCadr g c ∨ i = .blCadr g c) ∨ (∃ x, popListOf i = some x ∧ x.pc = true) ∨
    (∃ k, i = .swi k) ∨ i ∈ [.rt, .rti, .brk]

/-- The instructions that may change DSR. -/
def LoadsDataSegment (i : Instr) : Prop :=
  (∃ v, i = .dsrPrefixSeg v) ∨ (∃ d, i = .dsrPrefixRd d) ∨ i = .brk

theorem exec_runs (i : Instr) (s : State) :
    Runs (exec i s) (Ends s (MovesCodeSegment i) (LoadsDataSegment i) (isPrefixWord i)
      (setsBlock i)) := by
  have hs := Calm.refl s
  cases i
  case dsrPrefixSeg v => exact finishPrefix_runs fun _ => .inl ⟨v, rfl⟩
  case dsrPrefixRd d => exact finishPrefix_runs fun _ => .inr (.inl ⟨d, rfl⟩)
  case dsrPrefixDsr => exact finishPrefix_runs fun hne => absurd rfl hne
  case lErnEa | lErnEaInc | lErnErm | lErnDisp16Erm | lErnDisp6Bp | lErnDisp6Fp | lErnDadr | lRnEa |
      lRnEaInc | lRnErm | lRnDisp16Erm | lRnDisp6Bp | lRnDisp6Fp | lRnDadr | lXrnEa | lXrnEaInc |
      lQrnEa | lQrnEaInc =>
    exact loadRegs_runs ..
  case stErnEa | stErnEaInc | stErnErm | stErnDisp16Erm | stErnDisp6Bp | stErnDisp6Fp | stErnDadr |
      stRnEa | stRnEaInc | stRnErm | stRnDisp16Erm | stRnDisp6Bp | stRnDisp6Fp | stRnDadr |
      stXrnEa | stXrnEaInc | stQrnEa | stQrnEaInc | movEaCrm | movEaIncCrm | movEaCerm | movEaIncCerm |
      movEaCxrm | movEaIncCxrm | movEaCqrm | movEaIncCqrm =>
    exact storeBytes_runs ..
  case movCrnEa | movCrnEaInc | movCernEa | movCernEaInc | movCxrnEa | movCxrnEaInc | movCqrnEa |
      movCqrnEaInc =>
    exact loadCregs_runs ..
  case sbDbitadr | rbDbitadr | incEa | decEa => exact modifyByte_runs ..
  case tbDbitadr =>
    exact (readByte_runs ..).andThen fun _ _ =>
      Calm.advance ((calm_afterRead ..).trans (calm_update ..)) 2
  case sllRnRm | sllRnWidth | sllcRnRm | sllcRnWidth | sraRnRm | sraRnWidth | srlRnRm | srlRnWidth |
      srlcRnRm | srlcRnWidth =>
    exact finishShift_runs ..
  case pushErn | pushXrn | pushQrn => exact pushRegs_runs ..
  case pushRn =>
    exact (stackReady_runs s).andThen fun _ h => (pushByte_runs ..).andThen fun _ h' =>
      (h.trans h').advance 1
  case pushEa | pushElr | pushElrEa | pushEpsw | pushEpswEa | pushElrEpsw | pushElrEpswEa | pushLr |
      pushLrEa | pushElrLr | pushElrLrEa | pushEpswLr | pushEpswLrEa | pushElrEpswLr |
      pushElrEpswLrEa =>
    exact pushList_runs ..
  case popRn | popErn | popXrn | popQrn => exact popRegs_runs ..
  case popEa | popPc | popEaPc | popPsw | popEaPsw | popPswPc | popEaPswPc | popLr | popEaLr |
      popLrPc | popEaLrPc | popLrPsw | popEaLrPsw | popLrPswPc | popEaLrPswPc =>
    exact popList_runs _ _ _ _ (fun hpc => .inr (.inl ⟨_, rfl, hpc⟩)) s
  case bge | blt | bgt | ble | bges | blts | bgts | bles | bne | beq | bnv | bov | bps | bns =>
    exact branchOn_runs ..
  case bal radr => exact branchOn_runs .al radr s
  case swi k =>
    exact (enterException_runs (.inr (.inr (.inl ⟨k, rfl⟩))) ..).mono fun _ => (calm_update ..).ends
  case brk =>
    refine Runs.ite (fun _ => systemReset_runs (.inr (.inr (.inr (by simp)))) (.inr (.inr rfl)) s)
      fun _ => (enterException_runs (.inr (.inr (.inr (by simp)))) ..).mono fun _ =>
        (calm_update ..).ends
  case bCadr g c => exact hs.jump_setCodeSeg (.inl ⟨g, c, .inl rfl⟩) ..
  case blCadr g c =>
    exact ((calm_setLr ..).trans (calm_setLinkSeg ..)).jump_setCodeSeg (.inl ⟨g, c, .inr rfl⟩) ..
  case bErn => exact hs.jump _
  case blErn => exact ((calm_setLr ..).trans (calm_setLinkSeg ..)).jump _
  case rt => exact hs.jump_setCodeSeg (.inr (.inr (.inr (by simp)))) ..
  case rti => exact returnFromException_runs (.inr (.inr (.inr (by simp)))) s
  case movPswRm | movPswUnsigned8 => exact writePsw_runs ..
  case movEcsrRm =>
    exact onBank_runs ((calm_setLinkSeg ..).advance 1) fun k => (calm_setEcsr ..).advance 1
  case movElrErm =>
    exact onBank_runs ((calm_setLr ..).advance 1) fun k => (calm_setElr ..).advance 1
  case movEpswRm => exact onBank_runs (hs.advance 1) fun k => (calm_setEpsw ..).advance 1
  case movErnElr => exact onBank_runs (finishEr_runs hs ..) fun k => finishEr_runs hs ..
  case movRnEcsr =>
    exact onBank_runs (finishR_runs (calm_update ..) ..) fun k => finishR_runs (calm_update ..) ..
  case movRnEpsw => exact onBank_runs (hs.advance 1) fun k => finishR_runs hs ..
  case divErnRm =>
    refine Runs.ite (fun _ => nofun) fun _ => Runs.ite (fun _ => ?_) fun _ => ?_
    all_goals exact finishR_runs (calm_update ..) ..
  case ei =>
    exact (calm_openWindow s _).advance 1
  case movErnErm | movErnImm7 | addErnErm | addErnImm7 | movErnSp | mulErnRm =>
    exact finishEr_runs hs ..
  case cmpRnRm | cmpRnImm8 | cmpcRnRm | cmpcRnImm8 | cmpErnErm | tbRnBit | di | sc | rc | cplc =>
    exact finishPsw_runs ..
  case nop => exact hs.advance 1
  case addSpSigned8 | movSpErm | leaErm  | movCrnRm => exact Calm.advance (calm_update ..) 1
  case leaDisp16Erm | leaDadr => exact Calm.advance (calm_update ..) 2
  all_goals exact finishR_runs hs ..

theorem exec_ends {i : Instr} {s t : State} (h : exec i s = .next t) :
    Ends s (MovesCodeSegment i) (LoadsDataSegment i) (isPrefixWord i) (setsBlock i) t := by
  have hruns := exec_runs i s
  rwa [h] at hruns

/-- Settles O59. -/
theorem onlyListedInstructionsChangeTheSegments :
    Obligations.OnlyListedInstructionsChangeTheSegments := by
  intro s t i h
  have hends := exec_ends h
  exact ⟨hends.cfg, hends.code, hends.csr, hends.dsr⟩

/-- Settles O60. -/
theorem latchesAfterAnInstruction : Obligations.LatchesAfterAnInstruction := by
  intro s t i h
  have hends := exec_ends h
  refine ⟨hends.dsrPrefix, hends.intBlock.trans ?_⟩
  cases i <;> rfl

/-! ## Every step -/

theorem isPrefixWord_setsBlock {i : Instr} (h : isPrefixWord i = true) : setsBlock i = true := by
  cases i
  case swi | brk => rfl
  all_goals exact h

/-- `P` holds of the state a boundary passes on. -/
def Boundary.Passes (b : Boundary) (P : State → Prop) : Prop :=
  match b with
  | .reset t => P t
  | .accept _ _ t => P t
  | .stop _ => True
  | .execute t => P t

/-- After the tick only the acknowledgement and the index of free values differ. -/
theorem boundary_passes (s : State) : s.boundary.Passes (Calm s.tick) := by
  unfold State.boundary
  dsimp only
  split
  case isTrue => exact Calm.refl s.tick
  split
  case isTrue => exact Calm.refl s.tick
  split
  case isTrue =>
    split
    · exact calm_update ..
    · trivial
  split
  case isTrue => exact calm_update ..
  split
  case h_1 => exact Calm.refl s.tick
  split
  case isTrue => exact calm_update ..
  split
  · exact calm_update ..
  · exact calm_update ..

/-- The entry of an exception, the reset sequence and every instruction end as `Ends` says, so a
step does. -/
theorem step_ends {s t : State} (h : step s = .next t) :
    ∃ latch blocked, Ends s.tick True True latch blocked t ∧ (latch = true → blocked = true) := by
  have hpass := boundary_passes s
  unfold step at h
  split at h
  case h_1 u hb =>
    rw [hb] at hpass
    have hruns := systemReset_runs trivial trivial u
    rw [h] at hruns
    exact ⟨_, _, hpass.ends hruns, nofun⟩
  case h_2 k vector u hb =>
    rw [hb] at hpass
    have hruns := enterException_runs (Q := True) trivial u k u.pc vector (k == .one)
    rw [h] at hruns
    exact ⟨_, true, hpass.ends { hruns with csr := fun _ => trivial }, fun _ => rfl⟩
  case h_3 => cases h
  case h_4 u hb =>
    rw [hb] at hpass
    obtain ⟨i, -, hi⟩ := andThen_eq_next.mp h
    have hends := exec_ends hi
    exact ⟨_, _, hpass.ends { hends with csr := fun _ => trivial, dsr := fun _ => trivial },
      isPrefixWord_setsBlock⟩

/-- Settles O8: whatever a step runs, it starts from a state as sound as the last, and the latches
it leaves meet the invariant's clause on them. -/
theorem stepKeepsTheInvariant : Obligations.StepKeepsTheInvariant := by
  intro s t hinv h
  obtain ⟨hs, -⟩ := (inv_iff s).mp hinv
  have htick : Sound s.tick := { hs with window := (Nat.sub_le ..).trans hs.window }
  obtain ⟨latch, blocked, hends, hlatch⟩ := step_ends h
  refine (inv_iff t).mpr ⟨hends.sound htick, fun hp => ?_⟩
  rw [hends.intBlock]
  exact hlatch (hends.dsrPrefix ▸ hp)

end Sys2Proof.Machine
end

section
/-! PROOFS. What a step starts with: the fetch, the reset sequence and the boundary
(spec/60_exceptions.md R370, R374; spec/70_reset_and_hazards.md R410). -/

namespace Sys2Proof.Machine

/-! ## The fetch (spec/30_encoding.md R90, R99) -/

theorem step_of_runsInstruction {s : State} (h : RunsInstruction s) :
    step s = andThen (fetch s.tick) fun i => exec i s.tick := by
  rw [step_of_boundary, boundary_of_runsInstruction h]

/-- The tick changes no memory, so the fetch after it reads the same words. -/
theorem codeRead16_tick (s : State) (seg : Nibble) (off : Word) :
    s.tick.codeRead16 seg off = s.codeRead16 seg off :=
  codeRead16_congr rfl rfl rfl seg off

theorem hasSecondWord_of_some {w1 w2 : Word} {i : Instr} (h : decodeWords w1 w2 = some i) :
    hasSecondWord w1 = (i.words == 2) := by
  obtain ⟨j, hj, hw⟩ := decodeWords_of_some h 0x0000#16
  simp only [hasSecondWord, hj, hw]

theorem hasSecondWord_of_none {w1 : Word} (h : decodeWords w1 0x0000#16 = none) :
    hasSecondWord w1 = false := by
  simp only [hasSecondWord, h]

/-- The words of a well-formed instruction are fetched as it. -/
theorem fetch_of_encode {s : State} {i : Instr} {w1 w2 : Word} (hwf : i.wf = true)
    (h1 : s.codeRead16 s.codeSeg s.pc = .next w1)
    (h2 : encode i = [w1] ∨
      encode i = [w1, w2] ∧ s.codeRead16 s.codeSeg (s.pc + 2#16) = .next w2) :
    fetch s = .next i := by
  rcases encode_cases hwf with ⟨v1, he, hw, hd⟩ | ⟨v1, v2, he, hw, hd⟩
  · obtain rfl : v1 = w1 := by simpa [he] using h2
    have hone : hasSecondWord v1 = false := by rw [hasSecondWord_of_some (hd 0x0000#16), hw]; rfl
    simp [fetch, h1, hone, decodeFetched, hd]
  · obtain ⟨⟨rfl, rfl⟩, hread⟩ : (v1 = w1 ∧ v2 = w2) ∧ _ := by simpa [he] using h2
    have htwo : hasSecondWord v1 = true := by rw [hasSecondWord_of_some hd, hw]; rfl
    simp [fetch, h1, htwo, hread, decodeFetched, hd]

/-- A listed first word never makes the step stop as if it were unlisted. -/
theorem fetch_runs_of_listed {s : State} {w w2 : Word} {i : Instr}
    (hread : s.codeRead16 s.codeSeg s.pc = .next w) (h : decodeWords w w2 = some i) :
    Runs (fetch s) fun _ => True := by
  have hlisted : ∀ w2', Runs (decodeFetched w w2') fun _ => True := fun w2' => by
    obtain ⟨j, hj, -⟩ := decodeWords_of_some h w2'
    simp only [decodeFetched, hj]
    trivial
  rw [fetch, hread]
  exact Runs.ite (fun _ => (codeRead16_runs ..).andThen fun w2' _ => hlisted w2') fun _ => hlisted _

theorem fetch_of_unlisted {s : State} {w : Word}
    (hread : s.codeRead16 s.codeSeg s.pc = .next w) (h : decodeWords w 0x0000#16 = none) :
    fetch s = .refused (.unlistedEncoding w) := by
  simp [fetch, hread, hasSecondWord_of_none h, decodeFetched, h]

/-- A word is listed exactly when it begins the encoding of a well-formed instruction. -/
theorem decodeWords_eq_none_iff (w : Word) :
    decodeWords w 0x0000#16 = none ↔
      ∀ (i : Instr) (w2 : Word), i.wf = true → encode i ≠ [w] ∧ encode i ≠ [w, w2] := by
  constructor
  · intro hnone i w2 hwf
    have hno : ∀ w2', decodeWords w w2' ≠ some i := fun w2' hsome => by
      obtain ⟨j, hj, -⟩ := decodeWords_of_some hsome 0x0000#16
      rw [hnone] at hj
      cases hj
    rcases encode_cases hwf with ⟨v1, he, -, hd⟩ | ⟨v1, v2, he, -, hd⟩
    · refine ⟨fun e => ?_, by simp [he]⟩
      obtain rfl : v1 = w := by simpa [he] using e
      exact hno v1 (hd v1)
    · refine ⟨by simp [he], fun e => ?_⟩
      obtain ⟨rfl, rfl⟩ : v1 = w ∧ v2 = w2 := by simpa [he] using e
      exact hno v2 hd
  · intro h
    refine Option.eq_none_iff_forall_ne_some.mpr fun i hi => ?_
    obtain ⟨hwf, he⟩ := accepts_decodeWords w 0x0000#16 i hi
    obtain ⟨hone, htwo⟩ := h i 0x0000#16 hwf
    split at he
    · exact htwo he
    · exact hone he

/-- Settles O4. -/
theorem stepRunsTheDecodedInstruction : Obligations.StepRunsTheDecodedInstruction := by
  intro s i w1 w2 hruns hwf h1 h2
  have hfetch : fetch s.tick = .next i :=
    fetch_of_encode (w1 := w1) (w2 := w2) hwf ((codeRead16_tick ..).trans h1)
      (h2.imp_right fun ⟨he, hread⟩ => ⟨he, (codeRead16_tick ..).trans hread⟩)
  rw [step_of_runsInstruction hruns, hfetch, andThen_next, tick_registers]

/-- Settles O5: a listed word leads to an instruction or to a fault, and no instruction stops as an
unlisted word does. -/
theorem unlistedFirstWordStopsTheStep : Obligations.UnlistedFirstWordStopsTheStep := by
  intro s w hruns hread
  have hread : s.tick.codeRead16 s.tick.codeSeg s.tick.pc = .next w :=
    (codeRead16_tick ..).trans hread
  rw [step_of_runsInstruction hruns, ← decodeWords_eq_none_iff]
  constructor
  · intro hstop
    refine Option.eq_none_iff_forall_ne_some.mpr fun i hi => ?_
    have h := (fetch_runs_of_listed hread hi).andThen fun j _ =>
      (exec_runs j s.tick).mono (Q := fun _ => True) fun _ _ => trivial
    rw [hstop] at h
    exact h w rfl
  · intro hnone
    rw [fetch_of_unlisted hread hnone]
    rfl

/-- Settles O3. -/
theorem wordsWrittenInTheSpecDecodeAsItSays : Obligations.WordsWrittenInTheSpecDecodeAsItSays :=
  ⟨rfl, rfl, rfl, rfl, rfl, rfl, rfl, rfl, rfl, rfl, rfl, rfl, rfl, rfl, rfl, by decide⟩

/-! ## Reset -/

/-- Settles O6. -/
theorem resetStateHoldsTheStatedValues : Obligations.ResetStateHoldsTheStatedValues :=
  ⟨rfl, rfl, rfl, rfl, rfl, rfl, _, rfl, rfl⟩

/-- Settles O7. -/
theorem resetStateMeetsTheInvariant : Obligations.ResetStateMeetsTheInvariant where
  codeWf := rfl
  codeBelow := rfl
  dataWf := rfl
  dataBelow := rfl
  pcEven := rfl
  lrEven := rfl
  elr1Even := rfl
  elr2Even := rfl
  elr3Even := rfl
  smallCsr := fun _ => rfl
  smallLcsr := fun _ => rfl
  smallEcsr1 := fun _ => rfl
  smallEcsr2 := fun _ => rfl
  smallEcsr3 := fun _ => rfl
  prefixBlocks := nofun
  window := Nat.zero_le 2

theorem systemReset_of_reads {s : State} {spw pcw : Word}
    (hsp : s.codeRead16 0x0#4 0x0000#16 = .next spw)
    (hpc : s.codeRead16 0x0#4 0x0002#16 = .next pcw) : ∃ t, systemReset s = .next t := by
  simp only [systemReset, hsp, hpc, andThen_next]
  exact ⟨_, rfl⟩

/-- The free values of the link registers have bit 0 cleared (log 6, log 18). -/
theorem systemReset_even {s t : State} (h : systemReset s = .next t) :
    t.lr.getLsbD 0 = false ∧ t.elr1.getLsbD 0 = false ∧ t.elr2.getLsbD 0 = false ∧
      t.elr3.getLsbD 0 = false := by
  simp only [systemReset, andThen_eq_next, Host.Outcome.next.injEq] at h
  obtain ⟨_, _, _, _, rfl⟩ := h
  exact ⟨evenAddr_getLsbD_zero _, evenAddr_getLsbD_zero _, evenAddr_getLsbD_zero _,
    evenAddr_getLsbD_zero _⟩

/-- The reset sequence from a state whose two vectors can be read. -/
theorem systemReset_taken {s : State} {spw pcw : Word}
    (hsp : s.codeRead16 0x0#4 0x0000#16 = .next spw)
    (hpc : s.codeRead16 0x0#4 0x0002#16 = .next pcw) :
    ∃ t, systemReset s = .next t ∧ t.psw = 0x00#8 ∧ t.csr = 0x0#4 ∧ t.dsr = 0x00#8 ∧ t.sp = spw ∧
      t.pc = pcw &&& 0xFFFE#16 ∧ t.dsrPrefix = false ∧ t.intBlock = true ∧ t.cfg = s.cfg ∧
      t.code = s.code ∧ SameMemory s t ∧ t.deviceLog = s.deviceLog ++ [.reset] ∧
      t.inputs = s.inputs ∧ t.ack = s.ack := by
  obtain ⟨t, h⟩ := systemReset_of_reads hsp hpc
  obtain ⟨_, _, hsp', hpc', hpsw, hcsr, hdsr, hspt, hpct, hlatch, hblock, -, hcfg, hcode, hdata,
    hlog, hinputs, hack⟩ := systemReset_spec h
  cases hsp.symm.trans hsp'
  cases hpc.symm.trans hpc'
  exact ⟨t, h, hpsw, hcsr, hdsr, hspt, hpct, hlatch, hblock, hcfg, hcode,
    sameMemory_of_eq hcfg hcode hdata, hlog, hinputs, hack⟩

/-- Settles O9: the reset input comes before everything else a boundary looks at. -/
theorem resetInputPerformsTheResetSequence : Obligations.ResetInputPerformsTheResetSequence := by
  intro s spw pcw hreset hsp hpc
  have hstep : step s = systemReset s.tick := by simp [step, State.boundary, hreset]
  obtain ⟨t, h, hpsw, hcsr, hdsr, hspt, hpct, hlatch, hblock, hcfg, hcode, hmem, hlog, hinputs,
    hack⟩ := systemReset_taken ((codeRead16_tick ..).trans hsp) ((codeRead16_tick ..).trans hpc)
  obtain ⟨hlr, helr1, helr2, helr3⟩ := systemReset_even h
  have hsame : SameMemory s t := fun g o hd =>
    (hmem g o hd).trans (readByte_congr_memory (s := s) (t := s.tick) rfl rfl rfl hd)
  refine ⟨t, hstep.trans h, hpsw, hcsr, hdsr, hspt, hpct, hlatch, hblock, hlr, helr1, helr2, helr3,
    hcfg, hcode, hsame, ?_, hinputs, hack⟩
  rw [hlog, tick_deviceLog, List.append_assoc]
  rfl

end Sys2Proof.Machine
end

section
/-! PROOFS. Taking an exception and returning from one: requests, SWI, BRK and RTI
(spec/60_exceptions.md R370 to R384; spec/47_branch_swi.md R323, R324). -/

namespace Sys2Proof.Machine

/-! ## The entry of an exception (spec/60_exceptions.md R376) -/

theorem enterException_of_read {s : State} {vector w : Word}
    (h : s.codeRead16 0x0#4 vector = .next w) (k : Bank) (ret : Word) (clearMie : Bool) :
    ∃ t, enterException s k ret vector clearMie = .next t := by
  simp only [enterException, h, andThen_next]
  exact ⟨_, rfl⟩

/-- An entry changes neither memory nor what the devices have seen. -/
theorem sameData_entered (s : State) (k : Bank) (ret : Word) (csr : Nibble) (pc : Word)
    (psw : Byte) (intBlock : Bool) :
    SameData s { ((s.setElr k ret).setEcsr k s.codeSeg).setEpsw k s.psw with
                 csr := csr, pc := pc, psw := psw, intBlock := intBlock } := by
  cases k <;> exact sameData_of_eq rfl rfl rfl rfl

/-- The entry of an exception whose vector can be read. -/
theorem enterException_taken {s : State} {vector w : Word}
    (h : s.codeRead16 0x0#4 vector = .next w) (k : Bank) (ret : Word) (clearMie : Bool) :
    ∃ t, enterException s k ret vector clearMie = .next t ∧
      t = { ((s.setElr k ret).setEcsr k s.codeSeg).setEpsw k s.psw with
            csr := s.segWrite s.csr 0x0#4, pc := evenAddr w, psw := t.psw, intBlock := true } ∧
      elevel t.psw = k.level ∧ (∀ f, f ≠ .mie → getFlag t.psw f = getFlag s.psw f) ∧
      getFlag t.psw .mie = (!clearMie && getFlag s.psw .mie) ∧ SameData s t := by
  obtain ⟨t, ht⟩ := enterException_of_read h k ret clearMie
  obtain ⟨w', hw', heq, hlevel, hflags, hmie⟩ := enterException_spec ht
  cases h.symm.trans hw'
  refine ⟨t, ht, heq, hlevel, hflags, hmie, ?_⟩
  rw [heq]
  exact sameData_entered s k _ _ _ _ _

/-- Where CSR and the segment register it is saved in are used (spec decision D27). -/
theorem segments_saved {s : State} {old saved csr : Nibble}
    (hsaved : saved = s.segWrite old s.codeSeg) (hcsr : csr = s.segWrite s.csr 0x0#4) :
    (s.cfg.model = .large → saved = s.csr ∧ csr = 0x0#4) ∧
      (s.cfg.model = .small → saved = old ∧ csr = s.csr) := by
  subst hsaved hcsr
  refine ⟨fun hm => ⟨?_, segWrite_large hm _ _⟩,
    fun hm => ⟨segWrite_small hm _ _, segWrite_small hm _ _⟩⟩
  rw [segWrite_large hm, State.codeSeg, segRead_large hm]

/-- With MIE kept, every flag is. -/
theorem flags_kept {p q : Byte} (hflags : ∀ f, f ≠ .mie → getFlag q f = getFlag p f)
    (hmie : getFlag q .mie = (!false && getFlag p .mie)) (f : Flag) :
    getFlag q f = getFlag p f := by
  by_cases hf : f = .mie
  · rw [hf, hmie]
    rfl
  · exact hflags f hf

/-! ## Requests (spec/60_exceptions.md R374) -/

/-- An accepted request is the entry of its set, from the ticked state with its acknowledgement. -/
theorem step_accepts {s : State} {k : Bank} {vector w : Word} {ack : Ack}
    (hb : s.boundary = .accept k vector { s.tick with ack := some ack })
    (hread : s.codeRead16 0x0#4 vector = .next w) :
    ∃ t, step s = .next t ∧
      t = { ((s.setElr k s.pc).setEcsr k s.codeSeg).setEpsw k s.psw with
            csr := s.segWrite s.csr 0x0#4, pc := evenAddr w, psw := t.psw, intBlock := true,
            inputs := s.inputs.tail, ack := some ack, eiWindow := s.eiWindow - 1,
            deviceLog := s.deviceLog ++ [.boundary] } ∧
      elevel t.psw = k.level ∧ (∀ f, f ≠ .mie → getFlag t.psw f = getFlag s.psw f) ∧
      getFlag t.psw .mie = (!(k == .one) && getFlag s.psw .mie) ∧ SameMemory s t := by
  have hstep : step s =
      enterException { s.tick with ack := some ack } k s.pc vector (k == .one) := by
    rw [step_of_boundary, hb]
    rfl
  obtain ⟨t, ht, heq, hk, hflags, hmie, hdata⟩ := enterException_taken
    (s := { s.tick with ack := some ack }) ((codeRead16_tick ..).trans hread) k s.pc (k == .one)
  refine ⟨t, hstep.trans ht, ?_, hk, hflags, hmie, fun g o hd => (hdata g o).trans ?_⟩
  · rw [heq]
    cases k <;> rfl
  · exact readByte_congr_memory (s := s) (t := { s.tick with ack := some ack }) rfl rfl rfl hd

/-- Settles O10. -/
theorem nonMaskableRequestIsAccepted : Obligations.NonMaskableRequestIsAccepted := by
  intro s w hreset hblock hnmice hnmi hlevel hread
  have hb : s.boundary = .accept .two 0x0008#16 { s.tick with ack := some .nmi } := by
    simp [State.boundary, State.nmiAcceptable, hreset, hblock, hnmice, hnmi, hlevel]
  obtain ⟨t, hstep, heq, hk, hflags, hmie, hdata⟩ := step_accepts hb hread
  obtain ⟨hlarge, hsmall⟩ := segments_saved (s := s) (old := s.ecsr2) (saved := t.ecsr2)
    (csr := t.csr) (by rw [heq]; rfl) (by rw [heq])
  exact ⟨t, hstep, by rw [heq]; rfl, hlarge, hsmall, hk, flags_kept hflags hmie, hdata⟩

/-- Settles O12: without level 3 the request is refused by name. -/
theorem emulatorRequestIsAcceptedOrStops : Obligations.EmulatorRequestIsAcceptedOrStops := by
  intro s w hreset hblock hnmice
  constructor
  · intro habsent
    simp [step, State.boundary, hreset, hblock, hnmice, habsent]
  · intro hhas hread
    have hb : s.boundary = .accept .three 0x0006#16 { s.tick with ack := some .nmice } := by
      simp [State.boundary, hreset, hblock, hnmice, hhas]
    obtain ⟨t, hstep, heq, hk, hflags, hmie, hdata⟩ := step_accepts hb hread
    obtain ⟨hlarge, hsmall⟩ := segments_saved (s := s) (old := s.ecsr3) (saved := t.ecsr3)
      (csr := t.csr) (by rw [heq]; rfl) (by rw [heq])
    exact ⟨t, hstep, by rw [heq]; rfl, hlarge, hsmall, hk, flags_kept hflags hmie, hdata⟩

/-- A maskable request alone, that MIE and ELEVEL let pass. -/
theorem miAcceptable_of_presented {s : State} {k : Fin 59}
    (hp : s.presented = ⟨false, false, false, some k⟩) (hmie : getFlag s.psw .mie = true)
    (hlevel : elevel s.psw ≤ 1#2) : s.miAcceptable = some k := by
  simp [State.miAcceptable, hp, hmie, hlevel]

/-- Settles O11. -/
theorem maskableRequestIsAccepted : Obligations.MaskableRequestIsAccepted := by
  intro s k w hp hblock hmieSet hlevel hwindow hread
  have hmi := miAcceptable_of_presented hp hmieSet hlevel
  have hb : s.boundary = .accept .one (miVector k) { s.tick with ack := some (.mi k) } := by
    simp [State.boundary, State.nmiAcceptable, hp, hblock, hmi, hwindow]
  obtain ⟨t, hstep, heq, hk, hflags, hmie, hdata⟩ := step_accepts hb ((miVector_eq k) ▸ hread)
  obtain ⟨hlarge, hsmall⟩ := segments_saved (s := s) (old := s.ecsr1) (saved := t.ecsr1)
    (csr := t.csr) (by rw [heq]; rfl) (by rw [heq])
  refine ⟨t, hstep, ?_, hlarge, hsmall, hk, hmie, hflags, hdata⟩
  rw [heq, hwindow]
  rfl

/-- Settles O14: in the window the free bit decides. -/
theorem acceptanceIsOptionalInTheWindowAfterEi :
    Obligations.AcceptanceIsOptionalInTheWindowAfterEi := by
  refine ⟨fun s t h => ?_, fun s k hp hblock hmieSet hlevel hwindow => ?_⟩
  · cases h
    rfl
  · intro u
    have hmi := miAcceptable_of_presented hp hmieSet hlevel
    have hopen : s.eiWindow ≠ 0 := hwindow.ne'
    cases hfree : Config.freeBit s.draws with
    | true =>
      have hb : s.boundary = .accept .one (miVector k) { u with ack := some (.mi k) } := by
        simp [State.boundary, State.nmiAcceptable, hp, hblock, hmi, hopen, hfree, u, State.tick]
      left
      rw [step_of_boundary, hb, ← miVector_eq]
      rfl
    | false =>
      have hb : s.boundary = .execute u := by
        simp [State.boundary, State.nmiAcceptable, hp, hblock, hmi, hopen, hfree, u, State.tick]
      right
      rw [step_of_boundary, hb]

/-- A step depends on what its boundary does alone. -/
theorem step_congr {s t : State} (h : s.boundary = t.boundary) : step s = step t := by
  rw [step_of_boundary, step_of_boundary, h]

/-- Settles O13: in each case the boundary does the same with the request as without it. -/
theorem blockedAndMaskedRequestsWait : Obligations.BlockedAndMaskedRequestsWait := by
  intro s rest nmice nmi mi
  refine ⟨fun hblock => ?_, fun hlevel => ?_, fun hmasked => ?_⟩
  · apply step_congr
    simp [State.boundary, State.presented, State.tick, hblock]
  · apply step_congr
    simp [State.boundary, State.presented, State.tick, State.nmiAcceptable, State.miAcceptable,
      hlevel]
  · apply step_congr
    have hno : (getFlag s.psw .mie && decide (elevel s.psw ≤ 1#2)) = false := by
      rcases hmasked with hlevel | hmie
      · have : ¬ elevel s.psw ≤ 1#2 := by bv_omega
        simp [this]
      · simp [hmie]
    simp [State.boundary, State.presented, State.tick, State.nmiAcceptable, State.miAcceptable, hno]

/-! ## SWI and BRK (spec/47_branch_swi.md R323, R324) -/

theorem swiVector_eq (snum : BitVec 6) :
    0x0080#16 + 2#16 * snum.setWidth 16 = BitVec.ofNat 16 (0x0080 + 2 * snum.toNat) := by
  apply BitVec.eq_of_toNat_eq
  simp

/-- Settles O52. -/
theorem swiTakesTheSoftwareInterrupt : Obligations.SwiTakesTheSoftwareInterrupt := by
  intro s snum w hread
  rw [← swiVector_eq] at hread
  obtain ⟨t, ht, heq, hk, hflags, hmie, hdata⟩ := enterException_taken
    (s := { s with dsrPrefix := false }) hread .one (s.nextPc 1) true
  obtain ⟨hlarge, hsmall⟩ := segments_saved (s := s) (old := s.ecsr1) (saved := t.ecsr1)
    (csr := t.csr) (by rw [heq]; rfl) (by rw [heq]; rfl)
  refine ⟨t, ht, ?_, hlarge, hsmall, hk, hmie, hflags, hdata⟩
  rw [heq]
  simp [State.setElr, State.setEcsr, State.setEpsw, State.nextPc]
  rfl

/-- Settles O53: below ELEVEL 2 BRK is an entry, at 2 and 3 the reset sequence. -/
theorem brkTakesItsVectorOrResets : Obligations.BrkTakesItsVectorOrResets := by
  intro s w spw pcw
  refine ⟨fun hlevel hread => ?entry, fun hlevel hsp hpc => ?reset⟩
  case entry =>
    have hexec : exec .brk s =
        enterException { s with dsrPrefix := false } .two (s.nextPc 1) 0x0004#16 false :=
      if_neg (by bv_omega)
    obtain ⟨t, ht, heq, hk, hflags, hmie, hdata⟩ := enterException_taken
      (s := { s with dsrPrefix := false }) hread .two (s.nextPc 1) false
    obtain ⟨hlarge, hsmall⟩ := segments_saved (s := s) (old := s.ecsr2) (saved := t.ecsr2)
      (csr := t.csr) (by rw [heq]; rfl) (by rw [heq]; rfl)
    refine ⟨t, hexec.trans ht, ?_, hlarge, hsmall, hk, flags_kept hflags hmie, hdata⟩
    rw [heq]
    simp [State.setElr, State.setEcsr, State.setEpsw, State.nextPc]
    rfl
  case reset =>
    have hexec : exec .brk s = systemReset s := if_pos hlevel
    obtain ⟨t, h, hpsw, hcsr, hdsr, hspt, hpct, hlatch, hblock, hcfg, hcode, hmem, hlog, -, -⟩ :=
      systemReset_taken hsp hpc
    exact ⟨t, hexec.trans h, hpsw, hcsr, hdsr, hspt, hpct, hlatch, hblock, hcfg, hcode, hmem, hlog⟩

/-! ## The set ELEVEL selects (spec/10_state.md R21, R22) -/

theorem bank_of_level {s : State} {k : Bank} (h : elevel s.psw = k.level) : s.bank = some k := by
  rw [State.bank, h]
  cases k <;> rfl

theorem bank_of_levelZero {s : State} (h : elevel s.psw = 0#2) : s.bank = none := by
  rw [State.bank, h]
  rfl

/-- The third set needs HAS_LEVEL3, the others are always there. -/
theorem hasBank_of {s : State} {k : Bank} (h : k = .three → s.cfg.hasLevel3 = true) :
    s.hasBank k = true := by
  cases k with
  | one => rfl
  | two => rfl
  | three => exact h rfl

theorem selectBank_of_level {s : State} {k : Bank} (hlevel : elevel s.psw = k.level)
    (hhas : s.hasBank k = true) (why : Refusal) : selectBank s why = .next k :=
  selectBank_eq_next.mpr ⟨bank_of_level hlevel, hhas⟩

theorem selectBank_of_levelZero {s : State} (h : elevel s.psw = 0#2) (why : Refusal) :
    selectBank s why = .refused why := by
  simp [selectBank, bank_of_levelZero h]

/-! ## RTI (spec/48_muldiv_misc.md R355; spec/60_exceptions.md R382) -/

/-- A segment register is written in the LARGE model alone (spec decision D27). -/
theorem segWrite_eq (s : State) (old v : Nibble) :
    s.segWrite old v = if s.cfg.model = .large then v else old := by
  simp [State.segWrite, State.isLarge]

/-- At the level of a set the product has, RTI takes everything back from that set. -/
theorem returnFromException_of_level {s : State} {k : Bank} (hlevel : elevel s.psw = k.level)
    (hhas : s.hasBank k = true) :
    returnFromException s =
      .next { s with csr := s.segWrite s.csr (s.ecsr k), psw := s.epsw k, pc := evenAddr (s.elr k),
                     dsrPrefix := false, intBlock := false } := by
  rw [returnFromException, selectBank_of_level hlevel hhas]
  rfl

/-- Settles O55. -/
theorem rtiRestoresTheInterruptedProgram : Obligations.RtiRestoresTheInterruptedProgram := by
  intro s k hlevel hthree
  refine ⟨_, returnFromException_of_level hlevel (hasBank_of hthree), ?_,
    sameData_of_eq rfl rfl rfl rfl⟩
  rw [segWrite_eq]
  rfl

/-- What the entry saves in set `k` is what it replaces: reading the three saved values gives PC
with bit 0 cleared, CSR where it is used, and PSW. -/
theorem saved_read (s : State) (k : Bank) (csr : Nibble) (pc : Word) (psw : Byte) (b : Bool)
    {t : State} (ht : t = { ((s.setElr k s.pc).setEcsr k s.codeSeg).setEpsw k s.psw with
                            csr := csr, pc := pc, psw := psw, intBlock := b }) :
    t.elr k = evenAddr s.pc ∧ (s.cfg.model = .large → t.ecsr k = s.csr) ∧ t.epsw k = s.psw := by
  subst ht
  have hseg : s.cfg.model = .large → ∀ old, s.segRead (s.segWrite old s.codeSeg) = s.csr :=
    fun hm old => by rw [segWrite_large hm, State.codeSeg, segRead_large hm, segRead_large hm]
  cases k <;> exact ⟨rfl, fun hm => hseg hm _, rfl⟩

/-- Settles O56: RTI reads the three registers the entry wrote, and the entry wrote no others that
RTI does not write back. -/
theorem rtiUndoesTheEntry : Obligations.RtiUndoesTheEntry := by
  intro s t k vector clearMie hinv hhas hentry
  obtain ⟨w, -, ht, hlevel, -, -⟩ := enterException_spec hentry
  obtain ⟨helr, hecsr, hepsw⟩ := saved_read s k _ _ _ _ ht
  have hcfg : t.cfg = s.cfg := by
    rw [ht]
    cases k <;> rfl
  have hhast : t.hasBank k = true := by
    rw [← hhas]
    cases k with
    | one => rfl
    | two => rfl
    | three => exact congrArg Config.hasLevel3 hcfg
  refine ⟨_, returnFromException_of_level hlevel hhast, ?pc, ?csr, hepsw, ?_, ?_, ?_, ?_, ?_, ?_,
    ?data⟩
  case pc =>
    show evenAddr (t.elr k) = s.pc
    rw [helr, evenAddr_evenAddr, evenAddr_of_even hinv.pcEven]
  case csr =>
    show t.segWrite t.csr (t.ecsr k) = s.csr
    cases hm : s.cfg.model with
    | large => rw [segWrite_large (hcfg ▸ hm), hecsr hm]
    | small =>
      rw [segWrite_small (hcfg ▸ hm), ht]
      exact segWrite_small hm _ _
  case data =>
    have hdata : SameData s t := by
      rw [ht]
      exact sameData_entered s k _ _ _ _ _
    exact fun g o => (sameData_of_eq (s := t) rfl rfl rfl rfl g o).trans (hdata g o)
  all_goals
    rw [ht]
    cases k <;> rfl

/-! ## Branches, calls and returns (spec/47_branch_swi.md R325 to R328) -/

/-- A segment register that takes the value of another: in the SMALL model it takes none. -/
theorem segWrite_segRead (s : State) (old v : Nibble) :
    s.segWrite old (s.segRead v) = if s.cfg.model = .large then v else old := by
  rw [segWrite_eq]
  split
  case isTrue hm => exact segRead_large hm v
  case isFalse => rfl

/-- NextPC is even, so LR takes it whole. -/
theorem setLr_nextPc (s : State) (words : Nat) :
    s.setLr (s.nextPc words) = { s with lr := s.nextPc words } := by
  rw [State.setLr, State.nextPc, evenAddr_evenAddr]

/-- Settles O54: each is a jump, with CSR, LCSR and LR written before it. -/
theorem branchesCallsAndReturnMoveControl : Obligations.BranchesCallsAndReturnMoveControl := by
  intro s g cadr n seg
  refine ⟨⟨_, rfl, ?bCadr, ?_⟩, ⟨_, rfl, rfl, ?_⟩, ⟨_, rfl, ?blCadr, ?_⟩, ⟨_, rfl, ?blErn, ?_⟩,
    ⟨_, rfl, ?rt, ?_⟩, ⟨_, rfl, rfl, ?_⟩⟩
  case bCadr =>
    simp only [seg, ← segWrite_eq]
    rfl
  case blCadr =>
    simp only [seg]
    rw [setLr_nextPc, ← segWrite_segRead s s.lcsr, ← segWrite_eq s s.csr]
    rfl
  case blErn =>
    simp only [seg, setLr_nextPc, ← segWrite_segRead]
    rfl
  case rt =>
    simp only [seg, ← segWrite_segRead]
    rfl
  all_goals exact sameData_of_eq rfl rfl rfl rfl

end Sys2Proof.Machine
end

section
/-! PROOFS. Subtraction and comparison, decimal adjustment, multiplication and division, and the PSW
instructions (spec/40_arithmetic.md, spec/46_ea_alu_bit_psw.md, spec/48_muldiv_misc.md). -/

namespace Sys2Proof.Machine

/-! ## Subtraction (spec/40_arithmetic.md R128 to R131, R138, R139) -/

/-- How a byte subtraction ends: the difference is written, or only compared. -/
def finishSub (s : State) (n : RegNo) (v psw' : Byte) (writes : Bool) : Res State :=
  if writes then finishR s n v psw' else finishPsw s psw'

theorem finishSub_spec (s : State) (n : RegNo) (v p : Byte) (writes : Bool) :
    ∃ t, finishSub s n v p writes = .next t ∧ FrameRegs s t 1 ∧ KeepsRegsBut s t n 1 ∧
      t.r n = (if writes then v else s.r n) ∧ t.psw = p := by
  cases writes with
  | true => exact finishR_spec s n v p
  | false =>
    obtain ⟨t, hnext, hframe, hregs, hpsw⟩ := finishPsw_spec s p
    exact ⟨t, hnext, hframe, keepsRegsBut_of_eq hregs n 1, r_congr hregs n, hpsw⟩

/-- What a byte subtraction does whose PSW has the flags of SUBF, Z combined with `zin`. -/
theorem finishSub_subF (s : State) (n : RegNo) (a b p : Byte) (bin zin writes : Bool)
    (hp : PswIs p (subF a b bin).c (zin && (subF a b bin).z) (subF a b bin).s (subF a b bin).ov
      (getFlag s.psw .mie) (subF a b bin).hc (elevel s.psw)) :
    let d : Int := (a.toNat : Int) - b.toNat - bin.toNat
    let signed : Int := a.toInt - b.toInt - bin.toNat
    ∃ t, finishSub s n (subF a b bin).value p writes = .next t ∧ FrameRegs s t 1 ∧
      KeepsRegsBut s t n 1 ∧
      ((t.r n).toNat : Int) = (if writes then d % 256 else ((s.r n).toNat : Int)) ∧
      PswIs t.psw (decide (d < 0)) (zin && decide (d % 256 = 0)) (decide (128 ≤ d % 256))
        (decide (signed < -128 ∨ 127 < signed)) (getFlag s.psw .mie)
        (decide (a.toNat % 16 < b.toNat % 16 + bin.toNat)) (elevel s.psw) := by
  intro d signed
  obtain ⟨hdiff, hc, hz, hs, hov, hhc⟩ := subF_byte a b bin
  obtain ⟨t, hnext, hframe, hkeeps, hvalue, hpsw⟩ :=
    finishSub_spec s n (subF a b bin).value p writes
  simp only [hc, hz, hs, hov, hhc] at hp
  refine ⟨t, hnext, hframe, hkeeps, ?_, hpsw ▸ hp⟩
  rw [hvalue, ← hdiff]
  split <;> rfl

/-- Settles O16: all seven forms end so, and only the rule for Z tells SUBC and CMPC from the
others. -/
theorem byteSubtractionSubtractsAndSetsEveryFlag :
    Obligations.ByteSubtractionSubtractsAndSetsEveryFlag := by
  intro s i n m a b bin zin writes h
  have hsub := pswArith_fields s.psw (subF a b false)
  have hsubc := pswArithCarry_fields s.psw (subF a b (getFlag s.psw .c))
  rw [← Bool.true_and (subF a b false).z] at hsub
  have hexec : ∃ p, exec i s = finishSub s n (subF a b bin).value p writes ∧
      PswIs p (subF a b bin).c (zin && (subF a b bin).z) (subF a b bin).s (subF a b bin).ov
        (getFlag s.psw .mie) (subF a b bin).hc (elevel s.psw) := by
    rcases h with ⟨rfl, rfl, rfl, rfl, rfl, rfl⟩ | ⟨rfl, rfl, rfl, rfl, rfl, rfl⟩ |
      ⟨rfl, rfl, rfl, rfl, rfl⟩ | ⟨rfl, rfl, rfl, rfl, rfl, rfl⟩ | ⟨rfl, rfl, rfl, rfl, rfl, rfl⟩ |
      ⟨rfl, rfl, rfl, rfl, rfl⟩ | ⟨rfl, rfl, rfl, rfl, rfl, rfl⟩
    · exact ⟨_, rfl, hsub⟩
    · exact ⟨_, rfl, hsub⟩
    · exact ⟨_, rfl, hsub⟩
    · exact ⟨_, rfl, hsubc⟩
    · exact ⟨_, rfl, hsubc⟩
    · exact ⟨_, rfl, hsubc⟩
    · exact ⟨_, rfl, hsub⟩
  obtain ⟨p, hexec, hp⟩ := hexec
  rw [hexec]
  exact finishSub_subF s n a b p bin zin writes hp

/-! ## Comparison (spec/40_arithmetic.md R144; spec/47_branch_swi.md R321) -/

/-- The flags of a comparison of words: unsigned operands are equal when their difference is 0, not
only 0 modulo 2^16. -/
theorem subF_word_compare (a b : Word) :
    let d : Int := (a.toNat : Int) - b.toNat
    let signed : Int := a.toInt - b.toInt
    (subF a b false).c = decide (d < 0) ∧ (subF a b false).z = decide (d = 0) ∧
      (subF a b false).s = decide (32768 ≤ d % 65536) ∧
      (subF a b false).ov = decide (signed < -32768 ∨ 32767 < signed) ∧
      (subF a b false).hc = decide (a.toNat % 4096 < b.toNat % 4096) := by
  have h := subF_word a b false
  simp only [Bool.toNat_false, Nat.cast_zero, Int.sub_zero, Nat.add_zero] at h
  obtain ⟨-, hc, hz, hs, hov, hhc⟩ := h
  refine ⟨hc, ?_, hs, hov, hhc⟩
  rw [hz, decide_eq_decide]
  omega

/-- Settles O19. -/
theorem wordComparisonSetsEveryFlagAndNoRegister :
    Obligations.WordComparisonSetsEveryFlagAndNoRegister := by
  intro s n m a b d signed
  obtain ⟨t, hnext, hframe, hregs, hpsw⟩ := finishPsw_spec s (pswArith s.psw (subF a b false))
  obtain ⟨hc, hz, hs, hov, hhc⟩ := subF_word_compare a b
  have hp := pswArith_fields s.psw (subF a b false)
  simp only [hc, hz, hs, hov, hhc] at hp
  exact ⟨t, hnext, hframe, hregs, hpsw ▸ hp⟩

/-- What the flags of a PSW say of the two operands of a comparison, read as unsigned (`ua`, `ub`)
and as signed (`sa`, `sb`). -/
structure Compared (p : Byte) (ua ub sa sb : Int) : Prop where
  below : getFlag p .c = decide (ua < ub)
  equal : getFlag p .z = decide (ua = ub)
  less : (getFlag p .ov ^^ getFlag p .s) = decide (sa < sb)
  same : ua = ub ↔ sa = sb

/-- Each condition in the terms of the comparison it is named for. -/
theorem conditions_of_compared {p : Byte} {ua ub sa sb : Int} (h : Compared p ua ub sa sb) :
    Cond.ge.holds p = decide (ub ≤ ua) ∧ Cond.lt.holds p = decide (ua < ub) ∧
    Cond.gt.holds p = decide (ub < ua) ∧ Cond.le.holds p = decide (ua ≤ ub) ∧
    Cond.ges.holds p = decide (sb ≤ sa) ∧ Cond.lts.holds p = decide (sa < sb) ∧
    Cond.gts.holds p = decide (sb < sa) ∧ Cond.les.holds p = decide (sa ≤ sb) ∧
    Cond.ne.holds p = decide (ua ≠ ub) ∧ Cond.eq.holds p = decide (ua = ub) := by
  have hsame := h.same
  simp only [Cond.holds, h.below, h.equal, h.less, ← decide_not, ← Bool.decide_and,
    ← Bool.decide_or, decide_eq_decide]
  refine ⟨?_, trivial, ?_, ?_, ?_, trivial, ?_, ?_, trivial, trivial⟩ <;> omega

theorem compared_of_bytes (p a b : Byte) :
    Compared (pswArith p (subF a b false)) a.toNat b.toNat a.toInt b.toInt := by
  obtain ⟨hc, hz, hs, hov, -⟩ := pswArith_fields p (subF a b false)
  have h := subF_byte a b false
  simp only [Bool.toNat_false, Nat.cast_zero, Int.sub_zero] at h
  obtain ⟨-, hc', hz', hs', hov', -⟩ := h
  have ha := BitVec.toInt_eq_toNat_cond a
  have hb := BitVec.toInt_eq_toNat_cond b
  refine ⟨?_, ?_, ?_, ?_⟩
  · rw [hc, hc', decide_eq_decide]
    omega
  · rw [hz, hz', decide_eq_decide]
    omega
  · rw [hov, hov', hs, hs', Bool.eq_iff_iff]
    simp only [Bool.xor_iff_ne, ne_eq, decide_eq_decide, decide_eq_true_eq]
    split_ifs at ha hb <;> omega
  · split_ifs at ha hb <;> omega

theorem compared_of_words (p : Byte) (a b : Word) :
    Compared (pswArith p (subF a b false)) a.toNat b.toNat a.toInt b.toInt := by
  obtain ⟨hc, hz, hs, hov, -⟩ := pswArith_fields p (subF a b false)
  obtain ⟨hc', hz', hs', hov', -⟩ := subF_word_compare a b
  have ha := BitVec.toInt_eq_toNat_cond a
  have hb := BitVec.toInt_eq_toNat_cond b
  refine ⟨?_, ?_, ?_, ?_⟩
  · rw [hc, hc', decide_eq_decide]
    omega
  · rw [hz, hz', decide_eq_decide]
    omega
  · rw [hov, hov', hs, hs', Bool.eq_iff_iff]
    simp only [Bool.xor_iff_ne, ne_eq, decide_eq_decide, decide_eq_true_eq]
    split_ifs at ha hb <;> omega
  · split_ifs at ha hb <;> omega

/-- Settles O21. -/
theorem conditionsAfterCompareMeanTheirNames :
    Obligations.ConditionsAfterCompareMeanTheirNames := by
  intro s t i n m imm ua ub sa sb hnext h
  apply conditions_of_compared
  rcases h with ⟨rfl, rfl, rfl, rfl, rfl⟩ | ⟨rfl, rfl, rfl, rfl, rfl⟩ | ⟨rfl, rfl, rfl, rfl, rfl⟩
  · cases hnext
    exact compared_of_bytes ..
  · cases hnext
    exact compared_of_bytes ..
  · cases hnext
    exact compared_of_words ..

/-! ## Decimal adjustment (spec/46_ea_alu_bit_psw.md R293, R294) -/

/-- What an instruction does that ends by writing the result of a decimal adjustment, `v`. -/
theorem finishR_pswDecimal (s : State) (n : RegNo) (x : DecimalResult) {v : Nat}
    (hv : x.value.toNat = v) :
    ∃ t, finishR s n x.value (pswDecimal s.psw x) = .next t ∧ FrameRegs s t 1 ∧
      KeepsRegsBut s t n 1 ∧ (t.r n).toNat = v ∧
      PswIs t.psw x.c (decide (v = 0)) (decide (128 ≤ v)) (getFlag s.psw .ov) (getFlag s.psw .mie)
        x.hc (elevel s.psw) := by
  obtain ⟨t, hnext, hframe, hkeeps, hvalue, hpsw⟩ :=
    finishR_spec s n x.value (pswDecimal s.psw x)
  have hz : (x.value == 0) = decide (v = 0) := by
    rw [← hv, Bool.eq_iff_iff, beq_iff_eq, decide_eq_true_eq, ← BitVec.toNat_inj]
    rfl
  have hs : x.value.msb = decide (128 ≤ v) := by rw [← hv, BitVec.msb_eq_decide]
  have hp := pswDecimal_fields s.psw x
  rw [hz, hs] at hp
  exact ⟨t, hnext, hframe, hkeeps, hvalue ▸ hv, hpsw ▸ hp⟩

/-- DAA, once its two corrections are known. -/
theorem daaF_of_fixes {x : Byte} {c hc high low : Bool} {adj : Nat}
    (hlow : (hc || decide (9 < x.toNat % 16)) = low)
    (hhigh : (c || decide (9 < x.toNat / 16) ||
      (decide (x.toNat / 16 = 9) && !hc && decide (9 < x.toNat % 16))) = high)
    (hadj : (decimalAdj high low).toNat = adj) :
    (daaF x c hc).value.toNat = (x.toNat + adj) % 256 ∧ (daaF x c hc).c = high ∧
      (daaF x c hc).hc = decide (16 ≤ x.toNat % 16 + adj % 16) := by
  subst hadj hhigh hlow
  exact ⟨BitVec.toNat_add _ _, rfl, rfl⟩

/-- DAS, once its two corrections are known. -/
theorem dasF_of_fixes {x : Byte} {c hc high low : Bool} {adj : Nat}
    (hlow : (hc || decide (9 < x.toNat % 16)) = low)
    (hhigh : (c || decide (9 < x.toNat / 16)) = high)
    (hadj : (decimalAdj high low).toNat = adj) :
    (dasF x c hc).value.toNat = (x.toNat + 256 - adj) % 256 ∧
      (dasF x c hc).c = (c || decide (x.toNat < adj)) ∧
      (dasF x c hc).hc = decide (x.toNat % 16 < adj % 16) := by
  subst hadj hhigh hlow
  refine ⟨(BitVec.toNat_sub _ _).trans ?_, rfl, rfl⟩
  have := (decimalAdj (c || decide (9 < x.toNat / 16)) (hc || decide (9 < x.toNat % 16))).isLt
  congr 1
  omega

/-- Settles O45: a row of either table fixes which of the two corrections are made, and so the
adjustment. -/
theorem decimalAdjustmentsFollowTheirTables : Obligations.DecimalAdjustmentsFollowTheirTables := by
  intro s n x hi lo c hc
  refine ⟨fun adj c' hrow => ?daa, fun adj hrow => ?das⟩
  case daa =>
    have hfix : ∃ low, (hc || decide (9 < lo)) = low ∧
        (c || decide (9 < hi) || (decide (hi = 9) && !hc && decide (9 < lo))) = c' ∧
        (decimalAdj c' low).toNat = adj := by
      rcases hrow with ⟨hc0, h1, hh, h2, rfl, rfl⟩ | ⟨hc0, h1, hh, h2, rfl, rfl⟩ |
        ⟨hc0, h1, hh, rfl, rfl⟩ | ⟨hc0, h1, hh, h2, rfl, rfl⟩ | ⟨hc0, h1, hh, h2, rfl, rfl⟩ |
        ⟨hc0, h1, hh, rfl, rfl⟩ | ⟨hc0, hh, h2, rfl, rfl⟩ | ⟨hc0, hh, h2, rfl, rfl⟩ |
        ⟨hc0, hh, rfl, rfl⟩
      · exact ⟨false, by simp [hh, h2], by simp [hc0, hh]; omega, rfl⟩
      · exact ⟨true, by simp [hh]; omega, by simp [hc0, hh]; omega, rfl⟩
      · exact ⟨true, by simp [hh], by simp [hc0, hh]; omega, rfl⟩
      · exact ⟨false, by simp [hh, h2], by simp [hc0, hh]; omega, rfl⟩
      · exact ⟨true, by simp [hh]; omega, by simp [hc0, hh]; omega, rfl⟩
      · exact ⟨true, by simp [hh], by simp [hc0, hh]; omega, rfl⟩
      · exact ⟨false, by simp [hh, h2], by simp [hc0], rfl⟩
      · exact ⟨true, by simp [hh]; omega, by simp [hc0], rfl⟩
      · exact ⟨true, by simp [hh], by simp [hc0], rfl⟩
    obtain ⟨low, hlow, hhigh, hadj⟩ := hfix
    obtain ⟨hv, hcarry, hhalf⟩ := daaF_of_fixes hlow hhigh hadj
    have h := finishR_pswDecimal s n (daaF (s.r n) c hc) hv
    rwa [hcarry, hhalf] at h
  case das =>
    have hfix : ∃ high low, (hc || decide (9 < lo)) = low ∧ (c || decide (9 < hi)) = high ∧
        (decimalAdj high low).toNat = adj := by
      rcases hrow with ⟨hc0, h1, hh, h2, rfl⟩ | ⟨hc0, h1, hh, h2, rfl⟩ | ⟨hc0, h1, hh, rfl⟩ |
        ⟨hc0, h1, hh, h2, rfl⟩ | ⟨hc0, h1, hh, rfl⟩ | ⟨hc0, h1, hh, h2, rfl⟩ | ⟨hc0, hh, h2, rfl⟩ |
        ⟨hc0, hh, rfl⟩ | ⟨hc0, hh, h2, rfl⟩
      · exact ⟨false, false, by simp [hh, h2], by simp [hc0, h1], rfl⟩
      · exact ⟨false, true, by simp [hh]; omega, by simp [hc0, h1], rfl⟩
      · exact ⟨false, true, by simp [hh], by simp [hc0, h1], rfl⟩
      · exact ⟨true, false, by simp [hh, h2], by simp [hc0]; omega, rfl⟩
      · exact ⟨true, true, by simp [hh], by simp [hc0]; omega, rfl⟩
      · exact ⟨true, true, by simp [hh]; omega, by simp [hc0]; omega, rfl⟩
      · exact ⟨true, false, by simp [hh, h2], by simp [hc0], rfl⟩
      · exact ⟨true, true, by simp [hh], by simp [hc0], rfl⟩
      · exact ⟨true, true, by simp [hh]; omega, by simp [hc0], rfl⟩
    obtain ⟨high, low, hlow, hhigh, hadj⟩ := hfix
    obtain ⟨hv, hcarry, hhalf⟩ := dasF_of_fixes hlow hhigh hadj
    have h := finishR_pswDecimal s n (dasF (s.r n) c hc) hv
    rwa [hcarry, hhalf] at h

/-! ## The PSW instructions (spec/46_ea_alu_bit_psw.md R302 to R306) -/

/-- Settles O49: each sets one flag, and EI opens the window too. -/
theorem pswInstructionsChangeOneFlag : Obligations.PswInstructionsChangeOneFlag := by
  intro s i f v window h
  have hexec : exec i s =
      .next (State.advance { s with psw := setFlag s.psw f v, eiWindow := window } 1) := by
    rcases h with ⟨rfl, rfl, rfl, rfl⟩ | ⟨rfl, rfl, rfl, rfl⟩ | ⟨rfl, rfl, rfl, rfl⟩ |
      ⟨rfl, rfl, rfl, rfl⟩ | ⟨rfl, rfl, rfl, rfl⟩ <;> rfl
  exact ⟨_, hexec, rfl, (getFlag_setFlag ..).trans (if_pos rfl),
    fun g hg => (getFlag_setFlag ..).trans (if_neg hg), elevel_setFlag ..,
    sameData_of_eq rfl rfl rfl rfl⟩

/-! ## MUL and DIV (spec/48_muldiv_misc.md R350, R351) -/

/-- The product of two bytes fits in a word. -/
theorem toNat_product (a b : Byte) :
    (BitVec.ofNat 16 (a.toNat * b.toNat)).toNat = a.toNat * b.toNat := by
  rw [BitVec.toNat_ofNat, Nat.mod_eq_of_lt]
  calc a.toNat * b.toNat < 256 * 256 := Nat.mul_lt_mul'' a.isLt b.isLt
    _ = 2 ^ 16 := rfl

/-- Settles O57. -/
theorem mulGivesTheUnsignedProduct : Obligations.MulGivesTheUnsignedProduct := by
  intro s n m p
  have hp : (BitVec.ofNat 16 p).toNat = p := toNat_product (s.r n) (s.r m)
  obtain ⟨t, hnext, hframe, hkeeps, hvalue, hpsw⟩ := finishEr_spec s n (BitVec.ofNat 16 p)
    (setFlag s.psw .z (BitVec.ofNat 16 p == 0))
  have hz : (BitVec.ofNat 16 p == 0) = decide (p = 0) := by
    rw [Bool.eq_iff_iff, beq_iff_eq, decide_eq_true_eq, ← BitVec.toNat_inj, hp]
    rfl
  refine ⟨t, hnext, hframe, hkeeps, hvalue ▸ hp, ?_⟩
  rw [hpsw, hz]
  simp [PswIs, getFlag_setFlag, elevel_setFlag]

/-- The end of a DIV whose divisor lies outside the dividend: quotient, remainder and PSW written,
one free value used. -/
theorem finishDiv_spec (s : State) {n m : RegNo} (hm : m ≠ n) (hm' : m ≠ n + 1) (q : Word)
    (r p : Byte) :
    ∃ t, finishR (State.setEr { s with draws := s.draws + 1 } n q) m r p = .next t ∧
      FrameRegs { s with draws := t.draws } t 1 ∧
      (∀ j, j ≠ n → j ≠ n + 1 → j ≠ m → t.r j = s.r j) ∧ t.er n = q ∧ t.r m = r ∧ t.psw = p := by
  refine ⟨_, rfl, ⟨rfl, sameData_of_eq rfl rfl rfl rfl⟩, fun j h1 h2 h3 => ?_, ?_,
    r_setR_same _ m r, rfl⟩
  · refine (r_setR_ne _ r h3).trans ?_
    rw [r_setEr, if_neg h2, if_neg h1]
    rfl
  · refine Eq.trans ?_ (er_setEr_same { s with draws := s.draws + 1 } n q)
    exact congrArg₂ mkWord (r_setR_ne _ r hm'.symm) (r_setR_ne _ r hm.symm)

/-- Settles O58. -/
theorem divGivesQuotientAndRemainder : Obligations.DivGivesQuotientAndRemainder := by
  intro s n m a d
  refine ⟨fun h => if_pos h, fun hm hm' => ?_⟩
  have hdisjoint : ¬(m = n ∨ m = n + 1) := fun h => h.elim hm hm'
  have hflags : ∀ (c z : Bool) (f : Flag), f ≠ .c → f ≠ .z →
      getFlag (setFlag (setFlag s.psw .c c) .z z) f = getFlag s.psw f := fun c z f hc hz => by
    simp [getFlag_setFlag, hc, hz]
  have hlevel : ∀ c z : Bool, elevel (setFlag (setFlag s.psw .c c) .z z) = elevel s.psw :=
    fun c z => by simp [elevel_setFlag]
  by_cases hd : d = 0
  · obtain ⟨t, hnext, hframe, hkeeps, -, -, hpsw⟩ := finishDiv_spec s hm hm'
      (Config.freeWord s.draws) (Config.freeByte s.draws)
      (setFlag (setFlag s.psw .c true) .z (Config.freeBit s.draws))
    have hexec : exec (.divErnRm n m) s = .next t :=
      (if_neg hdisjoint).trans ((if_pos hd).trans hnext)
    refine ⟨t, hexec, hframe, hkeeps, ?_, fun f h1 h2 => hpsw ▸ hflags _ _ f h1 h2,
      hpsw ▸ hlevel _ _, fun h => absurd hd h⟩
    simp [hpsw, hd, getFlag_setFlag]
  · obtain ⟨t, hnext, hframe, hkeeps, hq, hr, hpsw⟩ := finishDiv_spec s hm hm'
      (BitVec.ofNat 16 (a / d)) (BitVec.ofNat 8 (a % d))
      (setFlag (setFlag s.psw .c false) .z (divZ (Config.freeBit s.draws) a (a / d)))
    have hexec : exec (.divErnRm n m) s = .next t :=
      (if_neg hdisjoint).trans ((if_neg hd).trans hnext)
    have hquot : a / d < 2 ^ 16 := lt_of_le_of_lt (Nat.div_le_self a d) (s.er n).isLt
    have hrem : a % d < 2 ^ 8 :=
      lt_trans (Nat.mod_lt a (Nat.pos_of_ne_zero hd)) (s.r m).isLt
    have hz : getFlag t.psw .z = divZ (Config.freeBit s.draws) a (a / d) := by
      simp [hpsw, getFlag_setFlag]
    refine ⟨t, hexec, hframe, hkeeps, ?_, fun f h1 h2 => hpsw ▸ hflags _ _ f h1 h2,
      hpsw ▸ hlevel _ _, fun _ => ⟨?_, ?_, fun h0 => ?_, fun hne => ?_⟩⟩
    · simp [hpsw, hd, getFlag_setFlag]
    · rw [hq, BitVec.toNat_ofNat, Nat.mod_eq_of_lt hquot]
    · rw [hr, BitVec.toNat_ofNat, Nat.mod_eq_of_lt hrem]
    · rw [hz, divZ, if_pos h0]
    · have ha : a ≠ 0 := fun h0 => hne (by rw [h0, Nat.zero_div])
      rw [hz, divZ, if_neg ha, if_neg hne]

end Sys2Proof.Machine
end

section
/-! PROOFS. The moves of the control registers and of the coprocessor registers, the words that load
DSR before an access, and where the stack instructions and RTI are undefined
(spec/43_control_register.md, spec/44_push_pop.md R240, R241, R246). -/

namespace Sys2Proof.Machine

/-! ## The set ELEVEL selects, in the moves (spec/43_control_register.md R220) -/

theorem onBank_of_levelZero {s : State} (h : elevel s.psw = 0#2) (atZero : Res State)
    (f : Bank → Res State) : onBank s atZero f = atZero := by
  rw [onBank, bank_of_levelZero h]

theorem onBank_of_level {s : State} {k : Bank} (hlevel : elevel s.psw = k.level)
    (hhas : s.hasBank k = true) (atZero : Res State) (f : Bank → Res State) :
    onBank s atZero f = f k := by
  simp only [onBank, bank_of_level hlevel, hhas, if_true]

theorem onBank_of_absent {s : State} {k : Bank} (hlevel : elevel s.psw = k.level)
    (hhas : s.hasBank k = false) (atZero : Res State) (f : Bank → Res State) :
    onBank s atZero f = .refused .level3Absent := by
  simp only [onBank, bank_of_level hlevel, hhas, Bool.false_eq_true, if_false]

theorem selectBank_of_absent {s : State} {k : Bank} (hlevel : elevel s.psw = k.level)
    (hhas : s.hasBank k = false) (why : Refusal) :
    selectBank s why = .refused .level3Absent := by
  simp only [selectBank, bank_of_level hlevel, hhas, Bool.false_eq_true, if_false]

/-! ## Segment registers -/

theorem segRead_eq (s : State) (v : Nibble) :
    s.segRead v = if s.cfg.model = .large then v else 0x0#4 := by
  simp [State.segRead, State.isLarge]

theorem loNibble_append (hi lo : Nibble) : loNibble (hi ++ lo) = lo := by
  revert hi lo
  decide

/-- What a move from a segment register does: bits 7:4 are a free value. -/
theorem readSegInto_spec (n : RegNo) (c : Nibble) (s : State) :
    ∃ t, readSegInto n c s = .next t ∧ FrameRegs { s with draws := t.draws } t 1 ∧ t.psw = s.psw ∧
      KeepsRegsBut s t n 1 ∧ (t.r n).extractLsb' 0 4 = c := by
  obtain ⟨t, hnext, hframe, hkeeps, hvalue, hpsw⟩ := finishR_spec
    { s with draws := s.draws + 1 } n (Config.freeNibble s.draws ++ c) s.psw
  have hdraws : t.draws = s.draws + 1 := by rw [hframe.1]
  refine ⟨t, hnext, ?_, hpsw, hkeeps, ?_⟩
  · rw [hdraws]
    exact hframe
  · rw [hvalue]
    exact loNibble_append _ _

/-! ## One set written, another read -/

theorem elr_setElr_ne (s : State) {j k : Bank} (h : j ≠ k) (v : Word) :
    (s.setElr k v).elr j = s.elr j := by
  cases j <;> cases k <;> trivial

theorem ecsr_setEcsr_ne (s : State) {j k : Bank} (h : j ≠ k) (v : Nibble) :
    (s.setEcsr k v).ecsr j = s.ecsr j := by
  cases j <;> cases k <;> trivial

theorem epsw_setEpsw_ne (s : State) {j k : Bank} (h : j ≠ k) (v : Byte) :
    (s.setEpsw k v).epsw j = s.epsw j := by
  cases j <;> cases k <;> trivial

/-! ## The moves of ELR, ECSR and EPSW (spec/43_control_register.md R222 to R230) -/

/-- Settles O30. -/
theorem backupMovesAtLevelZeroUseTheLinkRegisters :
    Obligations.BackupMovesAtLevelZeroUseTheLinkRegisters := by
  intro s n hlevel
  have hzero := onBank_of_levelZero hlevel
  refine ⟨⟨_, hzero _ _, rfl, sameData_of_eq rfl rfl rfl rfl⟩, ?fromElr,
    ⟨_, hzero _ _, ?toEcsr, sameData_of_eq rfl rfl rfl rfl⟩, ?fromEcsr,
    ⟨_, hzero _ _, rfl, sameData_of_eq rfl rfl rfl rfl⟩,
    ⟨_, hzero _ _, rfl, sameData_of_eq rfl rfl rfl rfl⟩⟩
  case fromElr =>
    obtain ⟨t, hnext, hframe, hkeeps, hvalue, hpsw⟩ := finishEr_spec s n s.lr s.psw
    exact ⟨t, (hzero _ _).trans hnext, hframe, hpsw, hkeeps, hvalue⟩
  case toEcsr =>
    rw [← segWrite_eq]
    rfl
  case fromEcsr =>
    rw [← segRead_eq]
    obtain ⟨t, hnext, h⟩ := readSegInto_spec n s.linkSeg s
    exact ⟨t, (hzero _ _).trans hnext, h⟩

/-- Settles O31. -/
theorem backupMovesAtALevelUseItsSet : Obligations.BackupMovesAtALevelUseItsSet := by
  intro s n k hlevel hthree
  have hmove := onBank_of_level hlevel (hasBank_of hthree)
  refine ⟨⟨_, hmove _ _, ?_, fun j hj => ?elr, ?_, ?elrData⟩, ?fromElr,
    ⟨_, hmove _ _, ?large, ?small, fun j hj => ?ecsr, ?_, ?ecsrData⟩, ?fromEcsr,
    ⟨_, hmove _ _, ?_, fun j hj => ?epsw, ?_, ?epswData⟩, ?fromEpsw⟩
  case elr => exact elr_setElr_ne s hj _
  case ecsr => exact ecsr_setEcsr_ne s hj _
  case epsw => exact epsw_setEpsw_ne s hj _
  case fromElr =>
    obtain ⟨t, hnext, hframe, hkeeps, hvalue, hpsw⟩ := finishEr_spec s n (s.elr k) s.psw
    exact ⟨t, (hmove _ _).trans hnext, hframe, hpsw, hkeeps, hvalue⟩
  case large =>
    intro hm
    have hread : ∀ old v, s.segRead (s.segWrite old v) = v := fun old v => by
      rw [segWrite_large hm, segRead_large hm]
    cases k <;> exact hread _ _
  case small =>
    intro hm
    have hold := segWrite_small hm
    cases k <;> exact ⟨by simp [State.setEcsr, hold], by simp [State.setEcsr, hold],
      by simp [State.setEcsr, hold]⟩
  case fromEcsr =>
    obtain ⟨t, hnext, hframe, hpsw, hkeeps, hvalue⟩ := readSegInto_spec n (s.ecsr k) s
    refine ⟨t, (hmove _ _).trans hnext, hframe, hpsw, hkeeps, hvalue, fun hm => ?_⟩
    rw [hvalue]
    cases k <;> exact segRead_small hm _
  case fromEpsw =>
    obtain ⟨t, hnext, hframe, hkeeps, hvalue, hpsw⟩ := finishR_spec s n (s.epsw k) s.psw
    exact ⟨t, (hmove _ _).trans hnext, hframe, hpsw, hkeeps, hvalue⟩
  case elrData | ecsrData | epswData => cases k <;> exact sameData_of_eq rfl rfl rfl rfl
  all_goals cases k <;> rfl

/-! ## MOV PSW (spec/43_control_register.md R227; spec/70_reset_and_hazards.md R421, R422) -/

/-- With ELEVEL kept, or NOP next, only the second hazard of MOV PSW is left. -/
theorem writePsw_of_levelSafe {s : State} {v : Byte}
    (h : elevel v = elevel s.psw ∨ s.codeRead16 s.codeSeg (s.nextPc 1) = .next 0xFE8F#16) :
    writePsw v s = if getFlag s.psw .mie && !getFlag v .mie then .refused .movPswClearsMie
      else finishPsw s v := by
  unfold writePsw
  split
  case isTrue => rfl
  case isFalse hne =>
    rw [h.resolve_left hne]
    rfl

/-- Settles O32. -/
theorem movPswWritesAllEightBits : Obligations.MovPswWritesAllEightBits := by
  intro s i m v
  refine ⟨?read, fun hi hlevel hmie => ?write⟩
  case read =>
    obtain ⟨t, hnext, hframe, hkeeps, hvalue, hpsw⟩ := finishR_spec s m s.psw s.psw
    exact ⟨t, hnext, hframe, hpsw, hkeeps, hvalue⟩
  case write =>
    have hexec : exec i s = writePsw v s := by
      rcases hi with ⟨rfl, rfl⟩ | rfl <;> rfl
    have hsafe : (getFlag s.psw .mie && !getFlag v .mie) = false := by
      cases hold : getFlag s.psw .mie with
      | false => rfl
      | true => simp [hmie hold]
    refine ⟨_, hexec.trans ((writePsw_of_levelSafe hlevel).trans ?_), rfl,
      sameData_of_eq rfl rfl rfl rfl⟩
    rw [hsafe]
    rfl

/-- Settles O33. -/
theorem movPswStopsOnItsTwoHazards : Obligations.MovPswStopsOnItsTwoHazards := by
  intro s i m v next hi
  have hexec : exec i s = writePsw v s := by
    rcases hi with ⟨rfl, rfl⟩ | rfl <;> rfl
  rw [hexec]
  refine ⟨fun hlevel hread hnop => ?_, fun hlevel hold hnew => ?_⟩
  · simp [writePsw, hlevel, hread, hnop]
  · rw [writePsw_of_levelSafe hlevel, hold, hnew]
    rfl

/-! ## Where the stack instructions are undefined (spec/44_push_pop.md R240, R241, R246) -/

theorem stackReady_of_even {s : State} (hprefix : s.dsrPrefix = false)
    (hsp : s.sp.getLsbD 0 = false) : stackReady s = .next s :=
  stackReady_eq_next.mpr ⟨hprefix, hsp, rfl⟩

/-- Every PUSH and POP looks at `dsrPrefix` and at SP first. -/
theorem exec_of_stackReady_refused {i : Instr} {s : State} {why : Refusal}
    (hi : usesStack i = true) (h : stackReady s = .refused why) : exec i s = .refused why := by
  simp only [usesStack, Bool.or_eq_true, Option.isSome_iff_exists, or_assoc] at hi
  rcases hi with ⟨x, hx⟩ | ⟨x, hx⟩ | ⟨⟨n, k⟩, hx⟩ | ⟨⟨n, k⟩, hx⟩
  · rw [exec_of_pushListOf hx, pushList, h]
    rfl
  · rw [exec_of_popListOf hx, popList, h]
    rfl
  · rcases exec_of_pushRegOf hx with ⟨-, rfl⟩ | ⟨-, hexec⟩
    · exact congrArg (fun r => andThen r fun t => andThen (pushByte t (t.r n)) fun u =>
        .next (u.advance 1)) h
    · rw [hexec, pushRegs, h]
      rfl
  · rw [(exec_of_popRegOf hx).2, popRegs, h]
    rfl

/-- A list with ELR or EPSW needs a set, and asks for it before it pushes anything. -/
theorem pushList_of_selectBank_refused {s : State} {x : StackList} {why : Refusal}
    (hready : stackReady s = .next s) (hx : (x.psw || x.pc) = true)
    (h : selectBank s .backupAtLevelZero = .refused why) :
    pushList x.lr x.psw x.pc x.ea s = .refused why := by
  rw [pushList, hready]
  cases hpc : x.pc with
  | true => simp [pushElrItem, h]
  | false =>
    rw [hpc, Bool.or_false] at hx
    simp [hx, pushEpswItem, h]

/-- Settles O34: the moves and RTI ask for the set of ELEVEL, and so do the lists with ELR or EPSW.
-/
theorem levelThreeRegistersAbsentStops : Obligations.LevelThreeRegistersAbsentStops := by
  intro s i n x hlevel habsent h
  have hlevel : elevel s.psw = Bank.three.level := hlevel
  have hmove := onBank_of_absent (k := .three) hlevel habsent
  have hselect := selectBank_of_absent (k := .three) hlevel habsent
  rcases h with hi | ⟨hi, hx, hprefix, hsp⟩
  · simp only [List.mem_cons, List.not_mem_nil, or_false] at hi
    rcases hi with rfl | rfl | rfl | rfl | rfl | rfl | rfl
    case inr.inr.inr.inr.inr.inr =>
      exact congrArg (fun r => andThen r fun k =>
        .next (State.jump { s.setCodeSeg (s.ecsr k) with psw := s.epsw k } (s.elr k))) (hselect _)
    all_goals exact hmove _ _
  · rw [exec_of_pushListOf hi]
    exact pushList_of_selectBank_refused (stackReady_of_even hprefix hsp) hx (hselect _)

/-- Settles O40. -/
theorem stackAndReturnStopWhereUndefined : Obligations.StackAndReturnStopWhereUndefined := by
  refine ⟨fun s i hi => ⟨fun hprefix => ?_, fun hprefix hsp => ?_⟩, fun s i x hlevel => ?_⟩
  · exact exec_of_stackReady_refused hi (by simp [stackReady, hprefix])
  · exact exec_of_stackReady_refused hi (by simp [stackReady, hprefix, hsp])
  · have hselect := selectBank_of_levelZero hlevel
    refine ⟨?_, fun hi hx hprefix hsp => ?_⟩
    · show returnFromException s = _
      rw [returnFromException, hselect]
      rfl
    · rw [exec_of_pushListOf hi]
      exact pushList_of_selectBank_refused (stackReady_of_even hprefix hsp) hx (hselect _)

/-! ## DSR before an access, and coprocessor registers -/

/-- Settles O25: all three words end in the same way. -/
theorem prefixWordsSelectTheSegment : Obligations.PrefixWordsSelectTheSegment := by
  intro s i imm d v h
  have hexec : exec i s = finishPrefix s v := by
    rcases h with ⟨rfl, rfl⟩ | ⟨rfl, rfl⟩ | ⟨rfl, rfl⟩ <;> rfl
  rw [hexec, finishPrefix]
  refine ⟨fun hprefix => if_pos hprefix, fun hprefix => ⟨_, if_neg ?_, rfl,
    sameData_of_eq rfl rfl rfl rfl⟩⟩
  rw [hprefix]
  exact Bool.false_ne_true

/-- Settles O41. -/
theorem coprocessorRegisterMovesCopyOneByte : Obligations.CoprocessorRegisterMovesCopyOneByte := by
  intro s n m
  refine ⟨⟨_, rfl, rfl, cr_setCr_same s n (s.r m), fun q hq => ?_,
    sameData_of_eq rfl rfl rfl rfl⟩, ?_⟩
  · exact (cr_setCr s n q (s.r m)).trans (if_neg hq)
  · obtain ⟨t, hnext, hframe, hkeeps, hvalue, hpsw⟩ := finishR_spec s n (s.cr m) s.psw
    exact ⟨t, hnext, hframe, hpsw, hkeeps, hvalue⟩

end Sys2Proof.Machine
end

section
/-! PROOFS. What the instructions that access data memory do when every access is allowed
(spec/42_load_store.md, spec/45_coprocessor.md, spec/46_ea_alu_bit_psw.md R297 to R301,
spec/48_muldiv_misc.md R352, R353). -/

namespace Sys2Proof.Machine

/-! ## A run of registers -/

theorem add_ofNat_sub (n : RegNo) {i : Nat} (h : i < 16) :
    (n + BitVec.ofNat 4 i - n).toNat = i := by
  have hi : (BitVec.ofNat 4 i).toNat = i := by
    rw [BitVec.toNat_ofNat]
    omega
  have hn := n.isLt
  rw [BitVec.toNat_sub, BitVec.toNat_add, hi]
  omega

theorem eq_add_ofNat_sub (q n : RegNo) : q = n + BitVec.ofNat 4 (q - n).toNat := by
  rw [BitVec.ofNat_toNat, BitVec.setWidth_eq, add_sub_cancel]

/-- Outside the run from `n` on there is no byte of a list for a register. -/
theorem getElem?_of_outside {q n : RegNo} {bs : List Byte}
    (h : ∀ i < bs.length, q ≠ n + BitVec.ofNat 4 i) : bs[(q - n).toNat]? = none :=
  List.getElem?_eq_none (Nat.le_of_not_lt fun hlt => h _ hlt (eq_add_ofNat_sub q n))

/-- The bytes of a list as a function of their index. -/
theorem getElem?_map_range {b : Nat → Byte} {k size : Nat} (h : k < size) :
    ((List.range size).map b)[k]? = some (b k) := by
  simp [h]

/-- Registers loaded from `n` on hold the bytes in order, and no other register changes. -/
theorem setRBytes_loads (s : State) (n : RegNo) (b : Nat → Byte) {size : Nat} (hsize : size ≤ 16) :
    (∀ q, (∀ k < size, q ≠ n + BitVec.ofNat 4 k) →
      (s.setRBytes n ((List.range size).map b)).r q = s.r q) ∧
    ∀ k < size, (s.setRBytes n ((List.range size).map b)).r (n + BitVec.ofNat 4 k) = b k := by
  refine ⟨fun q hq => ?_, fun k hk => ?_⟩
  · rw [r_setRBytes _ _ _ _ (by simpa using hsize), getElem?_of_outside (by simpa using hq)]
    rfl
  · rw [r_setRBytes _ _ _ _ (by simpa using hsize), add_ofNat_sub n (by omega),
      getElem?_map_range hk]
    rfl

/-- The same of the coprocessor registers. -/
theorem setCrBytes_loads (s : State) (n : RegNo) (b : Nat → Byte) {size : Nat} (hsize : size ≤ 16) :
    (∀ q, (∀ k < size, q ≠ n + BitVec.ofNat 4 k) →
      (s.setCrBytes n ((List.range size).map b)).cr q = s.cr q) ∧
    ∀ k < size, (s.setCrBytes n ((List.range size).map b)).cr (n + BitVec.ofNat 4 k) = b k := by
  refine ⟨fun q hq => ?_, fun k hk => ?_⟩
  · rw [cr_setCrBytes _ _ _ _ (by simpa using hsize), getElem?_of_outside (by simpa using hq)]
    rfl
  · rw [cr_setCrBytes _ _ _ _ (by simpa using hsize), add_ofNat_sub n (by omega),
      getElem?_map_range hk]
    rfl

/-! ## Loads (spec/42_load_store.md R174; spec/45_coprocessor.md R260) -/

/-- Z and S of a load: from all its bytes, and from the top bit of the last. -/
theorem pswLoad_fields (p : Byte) (b : Nat → Byte) {size : Nat} (hsize : 0 < size) :
    PswIs (pswLoad p (8 * size) (leNat ((List.range size).map b))) (getFlag p .c)
      (decide (∀ k < size, b k = 0x00#8)) (b (size - 1)).msb (getFlag p .ov) (getFlag p .mie)
      (getFlag p .hc) (elevel p) := by
  have hz : (leNat ((List.range size).map b) == 0) = decide (∀ k < size, b k = 0x00#8) := by
    rw [Bool.eq_iff_iff, beq_iff_eq, leNat_eq_zero]
    simp
  have hs : (leNat ((List.range size).map b)).testBit (8 * size - 1) = (b (size - 1)).msb := by
    obtain ⟨m, rfl⟩ := Nat.exists_eq_succ_of_ne_zero hsize.ne'
    rw [List.range_succ, List.map_append, List.map_singleton]
    simpa using leNat_testBit_top ((List.range m).map b) (b m)
  rw [← hz, ← hs]
  exact pswZS_fields ..

/-- Two accounts of the same reads agree. -/
theorem readsBytes_unique {s : State} {seg : Byte} {a : Word} {b c : Nat → Byte} {order : List Nat}
    (hb : ReadsBytes s seg a b order) (hc : ReadsBytes s seg a c order) :
    ∀ k ∈ order, b k = c k := by
  induction order generalizing s with
  | nil => exact fun k hk => absurd hk List.not_mem_nil
  | cons j order ih =>
    obtain ⟨hb, hbs⟩ := hb
    obtain ⟨hc, hcs⟩ := hc
    have hj : b j = c j := Host.Outcome.next.inj (hb.symm.trans hc)
    exact fun k hk => (List.mem_cons.mp hk).elim (fun h => h ▸ hj) (ih hbs hcs k)

/-- The list a range of reads gave is the bytes it was said to find. -/
theorem eq_map_of_reads {s : State} {seg : Byte} {a : Word} {bs : List Byte} {b : Nat → Byte}
    {n : Nat} (hlen : bs.length = n)
    (hbs : ReadsBytes s seg a (fun k => bs.getD k 0x00#8) (List.range n))
    (hb : ReadsBytes s seg a b (List.range n)) : bs = (List.range n).map b := by
  refine List.ext_getElem (by simpa using hlen) fun k hk hk' => ?_
  have h := readsBytes_unique hbs hb k (by simpa using hlen ▸ hk)
  simpa [hk] using h

/-- A load whose bytes can be read. -/
theorem loadRegs_of_reads {s : State} {n : RegNo} {size : Nat} {off ea' : Word} {words : Nat}
    {b : Nat → Byte} (h : ReadsBytes s s.dseg (accessBase off size) b (List.range size)) :
    ∃ t, loadRegs s n size off ea' words = .next t ∧
      t = { s with regs := (s.setRBytes n ((List.range size).map b)).regs,
                   psw := pswLoad s.psw (8 * size) (leNat ((List.range size).map b)),
                   ea := ea', ar := t.ar, pc := s.nextPc words, dsrPrefix := false,
                   intBlock := false
                   deviceLog := s.deviceLog ++
                     readsSeen s.cfg s.dseg (accessBase off size) (List.range size) } := by
  obtain ⟨t, ht⟩ : ∃ t, loadRegs s n size off ea' words = .next t := by
    simp only [loadRegs, State.memRead, readBytes_of_reads h, andThen_next]
    exact ⟨_, rfl⟩
  obtain ⟨bs, hlen, hreads, heq⟩ := loadRegs_spec ht
  obtain rfl := eq_map_of_reads hlen hreads h
  exact ⟨t, ht, heq⟩

/-- A coprocessor load whose bytes can be read. -/
theorem loadCregs_of_reads {s : State} {n : RegNo} {size : Nat} {ea' : Word} {b : Nat → Byte}
    (h : ReadsBytes s s.dseg (accessBase s.ea size) b (List.range size)) :
    ∃ t, loadCregs s n size ea' = .next t ∧
      t = { s with cregs := (s.setCrBytes n ((List.range size).map b)).cregs, ea := ea',
                   ar := t.ar, pc := s.nextPc 1, dsrPrefix := false, intBlock := false
                   deviceLog := s.deviceLog ++
                     readsSeen s.cfg s.dseg (accessBase s.ea size) (List.range size) } := by
  obtain ⟨t, ht⟩ : ∃ t, loadCregs s n size ea' = .next t := by
    simp only [loadCregs, State.memRead, readBytes_of_reads h, andThen_next]
    exact ⟨_, rfl⟩
  obtain ⟨bs, hlen, hreads, heq⟩ := loadCregs_spec ht
  obtain rfl := eq_map_of_reads hlen hreads h
  exact ⟨t, ht, heq⟩

/-- Settles O26. -/
theorem loadsReadMemoryIntoRegisters : Obligations.LoadsReadMemoryIntoRegisters := by
  intro s i x b hx seg base hreads
  obtain ⟨hsizes, hexec⟩ := exec_of_loadAccess hx
  have hsize : 0 < x.size ∧ x.size ≤ 16 := by omega
  obtain ⟨t, hnext, heq⟩ := loadRegs_of_reads (n := x.reg) (ea' := x.eaAfter) (words := x.words)
    (off := x.addr) hreads
  have hregs : t.regs = (s.setRBytes x.reg ((List.range x.size).map b)).regs := by rw [heq]
  obtain ⟨hkeeps, hloaded⟩ := setRBytes_loads s x.reg b hsize.2
  refine ⟨t, hexec.trans hnext, ⟨?frame, ?memory⟩, ?cregs, ?ea, ?log,
    fun q hq => (r_congr hregs q).trans (hkeeps q hq),
    fun k hk => (r_congr hregs _).trans (hloaded k hk), ?psw⟩
  case frame =>
    rw [heq]
  case memory => exact sameMemory_of_eq (by rw [heq]) (by rw [heq]) (by rw [heq])
  case cregs => rw [heq]
  case ea => rw [heq]
  case log =>
    rw [heq]
    rfl
  case psw =>
    rw [heq]
    exact pswLoad_fields s.psw b hsize.1

/-- Settles O42. -/
theorem coprocessorLoadsReadMemory : Obligations.CoprocessorLoadsReadMemory := by
  intro s i x b hx seg base hreads
  obtain ⟨hsizes, haddr, hwords, hexec⟩ := exec_of_coLoadAccess hx
  have hsize : x.size ≤ 16 := by omega
  obtain ⟨t, hnext, heq⟩ := loadCregs_of_reads (n := x.reg) (ea' := x.eaAfter)
    (haddr ▸ show ReadsBytes s s.dseg (accessBase x.addr x.size) b _ from hreads)
  have hcregs : t.cregs = (s.setCrBytes x.reg ((List.range x.size).map b)).cregs := by rw [heq]
  obtain ⟨hkeeps, hloaded⟩ := setCrBytes_loads s x.reg b hsize
  refine ⟨t, hexec.trans hnext, ⟨?frame, ?memory⟩, ?regs, ?psw, ?ea, ?log,
    fun q hq => (cr_congr hcregs q).trans (hkeeps q hq),
    fun k hk => (cr_congr hcregs _).trans (hloaded k hk)⟩
  case frame =>
    rw [hwords, heq]
  case memory => exact sameMemory_of_eq (by rw [heq]) (by rw [heq]) (by rw [heq])
  case regs => rw [heq]
  case psw => rw [heq]
  case ea => rw [heq]
  case log =>
    simp only [base, haddr]
    rw [heq]
    rfl

/-! ## Stores -/

/-- What the bytes beyond those written would be does not matter. -/
theorem writesBytes_values {s t : State} {seg : Byte} {a : Word} {v w : Nat → Byte}
    {order : List Nat} (hvw : ∀ k ∈ order, v k = w k) (h : WritesBytes s t seg a v order) :
    WritesBytes s t seg a w order := by
  obtain ⟨hread, hlog, hother⟩ := h
  refine ⟨fun k hk hd => hvw k hk ▸ hread k hk hd, ?_, hother⟩
  rw [hlog, writesSeen, writesSeen]
  exact congrArg _ (List.flatMap_congr fun k hk => by rw [hvw k hk])

/-- A store whose bytes can be written. -/
theorem storeBytes_of_writable {s : State} {bs : List Byte} {off ea' : Word} {words : Nat}
    {v : Nat → Byte} (hlen : bs.length ≤ 65536) (hv : ∀ k < bs.length, bs[k]? = some (v k))
    (h : WritableRange s s.dseg (accessBase off bs.length) bs.length) :
    ∃ t, storeBytes s bs off ea' words = .next t ∧ FrameStore s t words ∧ t.psw = s.psw ∧
      t.ea = ea' ∧
      WritesBytes s t s.dseg (accessBase off bs.length) v (List.range bs.length) := by
  obtain ⟨t, ht⟩ : ∃ t, storeBytes s bs off ea' words = .next t := by
    obtain ⟨u, hu⟩ := writeBytes_of_writable h
    simp only [storeBytes, State.memWrite, hu, andThen_next]
    exact ⟨_, rfl⟩
  obtain ⟨heq, -, hwrites⟩ := storeBytes_spec hlen ht
  refine ⟨t, ht, ?_, by rw [heq], by rw [heq], writesBytes_values (fun k hk => ?_) hwrites⟩
  · rw [FrameStore, heq]
  · simp [hv k (List.mem_range.mp hk)]

/-- Settles O27. -/
theorem storesWriteRegistersToMemory : Obligations.StoresWriteRegistersToMemory := by
  intro s i x hx seg base hw
  obtain ⟨hsizes, hexec⟩ := exec_of_storeAccess hx
  have hlen := rBytes_length s x.reg x.size
  obtain ⟨t, hnext, h⟩ := storeBytes_of_writable (s := s) (bs := s.rBytes x.reg x.size)
    (off := x.addr) (ea' := x.eaAfter) (words := x.words) (by omega)
    (fun k hk => rBytes_getElem? s x.reg x.size k (hlen ▸ hk)) (by rw [hlen]; exact hw)
  rw [hlen] at h
  exact ⟨t, hexec.trans hnext, h⟩

/-- Settles O43. -/
theorem coprocessorStoresWriteMemory : Obligations.CoprocessorStoresWriteMemory := by
  intro s i x hx seg base hw
  obtain ⟨hsizes, hexec⟩ := exec_of_coStoreAccess hx
  have hlen := crBytes_length s x.reg x.size
  obtain ⟨t, hnext, h⟩ := storeBytes_of_writable (s := s) (bs := s.crBytes x.reg x.size)
    (off := x.addr) (ea' := x.eaAfter) (words := x.words) (by omega)
    (fun k hk => crBytes_getElem? s x.reg x.size k (hlen ▸ hk)) (by rw [hlen]; exact hw)
  rw [hlen] at h
  exact ⟨t, hexec.trans hnext, h⟩

/-! ## One byte read, changed and written back (spec/20_memory.md R65) -/

/-- A byte that can be read and written. -/
theorem modifyByte_ends {s : State} {off : Word} {f psw' : Byte → Byte} {words : Nat} {v : Byte}
    (hr : s.readByte s.dseg off = .next v) (hw : Writable s s.dseg off) :
    ∃ t, modifyByte s off f psw' words = .next t ∧ FrameStore s t words ∧ t.ea = s.ea ∧
      WritesBytes (s.afterRead s.dseg off) t s.dseg off (fun _ => f v) [0] ∧ t.psw = psw' v := by
  obtain ⟨t, ht⟩ := modifyByte_of_writable (f := f) (psw' := psw') (words := words) hr hw
  obtain ⟨v', hv', -, heq, hwrites⟩ := modifyByte_spec ht
  cases hr.symm.trans hv'
  refine ⟨t, ht, ?_, by rw [heq], hwrites, by rw [heq]⟩
  rw [FrameStore, heq]

/-- How a bit instruction on the byte at `dadr`, which was `v`, ends: the bit becomes `new`, the
others stay, the byte is written back if `writes`, and Z is the inverse of the bit before. -/
def MemoryBitEnds (x : Res State) (s : State) (bit : BitVec 3) (dadr : Word) (v : Byte)
    (new writes : Bool) : Prop :=
  ∃ t v', x = .next t ∧ FrameStore s t 2 ∧ t.ea = s.ea ∧
    (∀ j, v'.getLsbD j = if j = bit.toNat then new else v.getLsbD j) ∧
    WritesBytes (s.afterRead s.dseg dadr) t s.dseg dadr (fun _ => v')
      (if writes then [0] else []) ∧
    (writes = false → t.data = s.data) ∧ t.psw = pswBit s.psw v bit

/-- SB and RB: what the written value says of each bit. -/
theorem modifyByte_bitEnds {s : State} {bit : BitVec 3} {dadr : Word} {v : Byte} {new : Bool}
    {f : Byte → Byte} (hr : s.readByte s.dseg dadr = .next v) (hw : Writable s s.dseg dadr)
    (hf : ∀ j, (f v).getLsbD j = if j = bit.toNat then new else v.getLsbD j) :
    MemoryBitEnds (modifyByte s dadr f (fun v => pswBit s.psw v bit) 2) s bit dadr v new true := by
  obtain ⟨t, hnext, hframe, hea, hwrites, hpsw⟩ := modifyByte_ends hr hw
  exact ⟨t, f v, hnext, hframe, hea, hf, hwrites, nofun, hpsw⟩

/-- TB writes nothing, so the bit keeps its value. -/
theorem tbDbitadr_bitEnds {s : State} {bit : BitVec 3} {dadr : Word} {v : Byte}
    (hr : s.readByte s.dseg dadr = .next v) :
    MemoryBitEnds (execTbDbitadr bit dadr s) s bit dadr v (v.getLsbD bit.toNat) false := by
  rw [execTbDbitadr, hr]
  refine ⟨_, v, rfl, rfl, rfl, fun j => ?_, writesBytes_congr rfl rfl rfl rfl (writesBytes_nil ..),
    fun _ => rfl, rfl⟩
  split
  · next hj => rw [hj]
  · rfl

/-- Settles O47: SB and RB write the byte back with one bit replaced, TB only reads it. -/
theorem memoryBitInstructionsChangeOneBit : Obligations.MemoryBitInstructionsChangeOneBit := by
  intro s i bit dadr v new writes h seg hr hw
  have hends : MemoryBitEnds (exec i s) s bit dadr v new writes := by
    rcases h with ⟨rfl, rfl, rfl⟩ | ⟨rfl, rfl, rfl⟩ | ⟨rfl, rfl, rfl⟩
    · exact modifyByte_bitEnds hr (hw rfl) (getLsbD_withBit v bit)
    · exact modifyByte_bitEnds hr (hw rfl) (getLsbD_withoutBit v bit)
    · exact tbDbitadr_bitEnds hr
  obtain ⟨t, v', hnext, hframe, hea, hbits, hwrites, hdata, hpsw⟩ := hends
  exact ⟨t, v', hnext, hframe, hea, (hbits bit.toNat).trans (if_pos rfl),
    fun j hj => (hbits j).trans (if_neg hj), hwrites, hdata, hpsw ▸ pswBit_fields s.psw v bit⟩

/-- What INC computes of one byte. -/
theorem addF_one (v : Byte) :
    (addF v 0x01#8 false).value.toNat = (v.toNat + 1) % 256 ∧
      (addF v 0x01#8 false).ov = decide (v = 0x7F#8) ∧
      (addF v 0x01#8 false).hc = decide (v.toNat % 16 = 15) := by
  revert v
  decide

/-- What DEC computes of one byte. -/
theorem subF_one (v : Byte) :
    (subF v 0x01#8 false).value.toNat = (v.toNat + 255) % 256 ∧
      (subF v 0x01#8 false).ov = decide (v = 0x80#8) ∧
      (subF v 0x01#8 false).hc = decide (v.toNat % 16 = 0) := by
  revert v
  decide

/-- Settles O48. -/
theorem incAndDecChangeOneByte : Obligations.IncAndDecChangeOneByte := by
  intro s i v r ov hc seg h hr hw
  have hresult : ∃ f : Byte → AluResult 8,
      exec i s = modifyByte s s.ea (fun v => (f v).value) (fun v => pswArithKeepC s.psw (f v)) 1 ∧
      (f v).value = r ∧ (f v).z = ((f v).value == 0) ∧ (f v).s = (f v).value.msb ∧
      (f v).ov = ov ∧ (f v).hc = hc := by
    rcases h with ⟨rfl, hr, rfl, rfl⟩ | ⟨rfl, hr, rfl, rfl⟩
    · obtain ⟨hvalue, hov, hhc⟩ := addF_one v
      exact ⟨fun v => addF v 0x01#8 false, rfl, BitVec.eq_of_toNat_eq (hvalue.trans hr.symm), rfl,
        rfl, hov, hhc⟩
    · obtain ⟨hvalue, hov, hhc⟩ := subF_one v
      exact ⟨fun v => subF v 0x01#8 false, rfl, BitVec.eq_of_toNat_eq (hvalue.trans hr.symm), rfl,
        rfl, hov, hhc⟩
  obtain ⟨f, hexec, hvalue, hz, hs, hov, hhc⟩ := hresult
  obtain ⟨t, hnext, hframe, hea, hwrites, hpsw⟩ := modifyByte_ends
    (f := fun v => (f v).value) (psw' := fun v => pswArithKeepC s.psw (f v)) (words := 1) hr hw
  refine ⟨t, hexec.trans hnext, hframe, hea, hvalue ▸ hwrites, ?_⟩
  have hp := pswArithKeepC_fields s.psw (f v)
  rw [hz, hs, hov, hhc, hvalue, BitVec.msb_eq_decide] at hp
  rw [hpsw]
  exact hp

end Sys2Proof.Machine
end

section
/-! PROOFS. Where byte accesses stop, and what PUSH does otherwise (spec/20_memory.md R58 to R61;
spec/44_push_pop.md R240 to R250). -/

namespace Sys2Proof.Machine

/-! ## Stopping or going on -/

/-- `x` stops so, whatever would follow it, or, with no stop, goes on to something that meets `P`.
-/
def StopsOr {α : Type} (x : Res α) (stop : Option (Res State)) (P : α → Prop) : Prop :=
  match stop with
  | some e => ∀ f : α → Res State, andThen x f = e
  | none => ∃ a, x = .next a ∧ P a

theorem StopsOr.next {α : Type} {P : α → Prop} {a : α} (h : P a) : StopsOr (.next a) none P :=
  ⟨a, rfl, h⟩

/-- One after the other: the first stop of both. -/
theorem StopsOr.andThen {α β : Type} {x : Res α} {f : α → Res β} {o p : Option (Res State)}
    {P : α → Prop} {Q : β → Prop} (hx : StopsOr x o P) (hf : ∀ a, P a → StopsOr (f a) p Q) :
    StopsOr (Machine.andThen x f) (o.or p) Q := by
  cases o with
  | some e =>
    intro g
    rw [andThen_assoc]
    exact hx _
  | none =>
    obtain ⟨a, rfl, ha⟩ := hx
    exact hf a ha

/-- The last part stops nowhere. -/
theorem StopsOr.andThen_none {α β : Type} {x : Res α} {f : α → Res β} {o : Option (Res State)}
    {P : α → Prop} {Q : β → Prop} (hx : StopsOr x o P) (hf : ∀ a, P a → StopsOr (f a) none Q) :
    StopsOr (Machine.andThen x f) o Q := by
  have h := hx.andThen hf
  rwa [Option.or_none] at h

/-- What goes on did not stop. -/
theorem StopsOr.of_next {α : Type} {o : Option (Res State)} {P : α → Prop} {a : α}
    (h : StopsOr (.next a) o P) : o = none ∧ P a := by
  cases o with
  | some e =>
    have hfault : .fault (.unimplementedData 0) = e := h fun _ => .fault (.unimplementedData 0)
    have hrefused : .refused .divOverlap = e := h fun _ => .refused .divOverlap
    cases hfault.trans hrefused.symm
  | none =>
    obtain ⟨b, hb, hP⟩ := h
    cases hb
    exact ⟨rfl, hP⟩

/-- What it goes on to is what it answers. -/
theorem StopsOr.imp_next {α : Type} {x : Res α} {o : Option (Res State)} {P Q : α → Prop}
    (h : StopsOr x o P) (hPQ : ∀ a, x = .next a → P a → Q a) : StopsOr x o Q := by
  cases o with
  | some e => exact h
  | none =>
    obtain ⟨a, hx, ha⟩ := h
    exact ⟨a, hx, hPQ a hx ha⟩

theorem andThen_next_right {α : Type} (x : Res α) : andThen x .next = x := by
  cases x <;> rfl

theorem StopsOr.stopsOrGoesOn {i : Instr} {s : State} {o : Option (Res State)} {P : State → Prop}
    (h : StopsOr (exec i s) o P) : StopsOrGoesOn i s o := by
  cases o with
  | some e => exact (andThen_next_right _).symm.trans (h .next)
  | none =>
    obtain ⟨t, ht, -⟩ := h
    exact ⟨t, ht⟩

/-! ## The first stop -/

theorem firstStop_cons (stop : Word → Option (Res State)) (a : Word) (k : Nat) (order : List Nat) :
    firstStop stop a (k :: order) =
      (stop (a + BitVec.ofNat 16 k)).or (firstStop stop a order) := by
  rw [firstStop, List.findSome?_cons]
  cases stop (a + BitVec.ofNat 16 k) <;> rfl

theorem firstStop_append (stop : Word → Option (Res State)) (a : Word) (o p : List Nat) :
    firstStop stop a (o ++ p) = (firstStop stop a o).or (firstStop stop a p) :=
  List.findSome?_append

theorem add_ofNat_add (a : Word) (m n : Nat) :
    a + BitVec.ofNat 16 m + BitVec.ofNat 16 n = a + BitVec.ofNat 16 (m + n) := by
  rw [BitVec.add_assoc, BitVec.ofNat_add]

/-- Distances moved up by `n` from `a` are distances from `a + n`. -/
theorem firstStop_shift (stop : Word → Option (Res State)) (a : Word) (n : Nat) (o : List Nat) :
    firstStop stop a (o.map (n + ·)) = firstStop stop (a + BitVec.ofNat 16 n) o := by
  simp only [firstStop, List.findSome?_map, Function.comp_def, add_ofNat_add]

/-! ## Reads and writes, stopping or going on -/

theorem readByte_stopsOr (s : State) (seg : Byte) (off : Word) :
    StopsOr (s.readByte seg off) (readStop s seg off) fun _ => True := by
  have h := readByte_stop s seg off
  unfold StopsOr
  cases hstop : readStop s seg off with
  | some e =>
    rw [hstop] at h
    exact h
  | none =>
    rw [hstop] at h
    obtain ⟨b, hb⟩ := h
    exact ⟨b, hb, trivial⟩

theorem readBytes_stopsOr (s : State) (seg : Byte) (a : Word) (n : Nat) :
    StopsOr (s.readBytes seg a n) (firstStop (readStop s seg) a (List.range n)) fun _ => True := by
  have h := readBytes_stop s seg a n
  unfold StopsOr
  cases hstop : firstStop (readStop s seg) a (List.range n) with
  | some e =>
    rw [hstop] at h
    exact h
  | none =>
    rw [hstop] at h
    obtain ⟨r, hr⟩ := h
    exact ⟨r, hr, trivial⟩

/-- A stop is a stop: nothing follows it. -/
theorem andThen_of_writeStop {s : State} {seg : Byte} {off : Word} {e : Res State}
    (h : writeStop s seg off = some e) (f : State → Res State) : andThen e f = e := by
  simp only [writeStop] at h
  split_ifs at h <;> cases h <;> rfl

theorem writeByte_stopsOr (s : State) (seg : Byte) (off : Word) (v : Byte) :
    StopsOr (s.writeByte seg off v) (writeStop s seg off) fun t => t.cfg = s.cfg := by
  have h := writeByte_stop s seg off v
  unfold StopsOr
  cases hstop : writeStop s seg off with
  | some e =>
    rw [hstop] at h
    exact fun f => h ▸ andThen_of_writeStop hstop f
  | none =>
    rw [hstop] at h
    obtain ⟨t, ht⟩ := h
    exact ⟨t, ht, by rw [(writeByte_eq_next.mp ht).2]⟩

theorem writeBytes_stopsOr (s : State) (seg : Byte) (a : Word) (bs : List Byte) :
    StopsOr (s.writeBytes seg a bs) (firstStop (writeStop s seg) a (List.range bs.length))
      fun _ => True := by
  induction bs generalizing s a with
  | nil => exact .next trivial
  | cons b bs ih =>
    rw [List.length_cons, firstStop_succ]
    refine (writeByte_stopsOr s seg a b).andThen fun t ht => ?_
    rw [← writeStop_congr ht]
    exact ih t (a + 1#16)

/-- Nothing stops the writes of a writable range. -/
theorem firstStop_of_writable {s : State} {seg : Byte} {a : Word} {n : Nat} {order : List Nat}
    (h : WritableRange s seg a n) (horder : ∀ k ∈ order, k < n) :
    firstStop (writeStop s seg) a order = none := by
  refine List.findSome?_eq_none_iff.mpr fun k hk => ?_
  obtain ⟨t, ht⟩ := writeByte_of_writable (v := 0x00#8) (h k (horder k hk))
  exact (ht ▸ writeByte_stopsOr s seg (a + BitVec.ofNat 16 k) 0x00#8).of_next.1

/-! ## Writes put together -/

/-- Writes at distances moved up by `n` from `a` are writes from `a + n`. -/
theorem writesBytes_shift {s t : State} {seg : Byte} {a : Word} {n : Nat} {v : Nat → Byte}
    {order : List Nat} (h : WritesBytes s t seg (a + BitVec.ofNat 16 n) v order) :
    WritesBytes s t seg a (fun k => v (k - n)) (order.map (n + ·)) := by
  obtain ⟨hread, hlog, hother⟩ := h
  refine ⟨?_, ?_, fun g o hd hne => hother g o hd fun k hk => ?_⟩
  · simp only [List.forall_mem_map, ← add_ofNat_add, Nat.add_sub_cancel_left]
    exact hread
  · simpa only [writesSeen, List.flatMap_map, ← add_ofNat_add, Nat.add_sub_cancel_left] using hlog
  · rw [add_ofNat_add]
    exact hne _ (List.mem_map_of_mem hk)

/-- Writes followed by writes to other offsets. -/
theorem writesBytes_trans {s u t : State} {seg : Byte} {a : Word} {v : Nat → Byte}
    {o p : List Nat} (hcfg : u.cfg = s.cfg) (hfst : WritesBytes s u seg a v o)
    (hsnd : WritesBytes u t seg a v p)
    (hfar : ∀ j ∈ o, ∀ k ∈ p, a + BitVec.ofNat 16 j ≠ a + BitVec.ofNat 16 k) :
    WritesBytes s t seg a v (o ++ p) := by
  obtain ⟨hread, hlog, hother⟩ := hfst
  obtain ⟨hread', hlog', hother'⟩ := hsnd
  rw [hcfg] at hread' hlog' hother'
  refine ⟨fun k hk hd => ?_, ?_, fun g off hd hne => ?_⟩
  · rcases List.mem_append.mp hk with hk | hk
    · rw [hother' _ _ hd fun j hj h => hfar k hk j hj h.2, hread k hk hd]
    · exact hread' k hk hd
  · rw [hlog', hlog, List.append_assoc, writesSeen, writesSeen, writesSeen, List.flatMap_append]
  · rw [hother' g off hd fun k hk => hne k (List.mem_append_right _ hk),
      hother g off hd fun k hk => hne k (List.mem_append_left _ hk)]

/-! ## Pushing a frame -/

/-- Every distance of the order lies below `n`. -/
def Within (order : List Nat) (n : Nat) : Prop := ∀ k ∈ order, k < n

theorem Within.append {o p : List Nat} {m n : Nat} (ho : Within o m) (hp : Within p n) :
    Within (o.map (n + ·) ++ p) (n + m) := by
  intro k hk
  rcases List.mem_append.mp hk with hk | hk
  · obtain ⟨i, hi, rfl⟩ := List.mem_map.mp hk
    exact Nat.add_lt_add_left (ho i hi) _
  · exact Nat.lt_add_right _ (hp k hk)

theorem Within.ite {c : Bool} {o : List Nat} {n : Nat} (h : Within o n) :
    Within (if c then o else []) (if c then n else 0) := by
  cases c with
  | true => exact h
  | false => exact nofun

/-- From `s` to `t` the frame was pushed, its bytes written in this order: SP went down by its
length, and only data memory, what the devices have seen, AR and the index of free values changed
with it. -/
structure Pushed (s t : State) (frame : List StackByte) (order : List Nat) : Prop where
  state : t = { s with data := t.data, deviceLog := t.deviceLog, ar := t.ar, draws := t.draws,
                       sp := s.sp - BitVec.ofNat 16 frame.length }
  even : t.sp.getLsbD 0 = false
  within : Within order frame.length
  bytes : ∃ v, (∀ (j : Nat) (h : j < frame.length), frame[j].admits (v j)) ∧
    WritesBytes s t 0x00#8 t.sp v order

/-- `op` pushes the frame, or stops at the first byte of it that cannot be written. -/
def Pushes (op : State → Res State) (s : State) (frame : List StackByte) (order : List Nat) :
    Prop :=
  StopsOr (op s)
    (firstStop (writeStop s 0x00#8) (s.sp - BitVec.ofNat 16 frame.length) order)
    fun t => Pushed s t frame order

theorem Pushed.cfg {s t : State} {frame : List StackByte} {order : List Nat}
    (h : Pushed s t frame order) : t.cfg = s.cfg := by
  rw [h.state]

theorem Pushed.sp {s t : State} {frame : List StackByte} {order : List Nat}
    (h : Pushed s t frame order) : t.sp = s.sp - BitVec.ofNat 16 frame.length := by
  rw [h.state]

theorem Pushed.nil {s : State} (h : s.sp.getLsbD 0 = false) : Pushed s s [] [] :=
  ⟨by simp, h, nofun, fun _ => 0x00#8, nofun, writesBytes_nil ..⟩

/-- What two pushes leave: the frame pushed last lies below. -/
theorem Pushed.trans {s u t : State} {f g : List StackByte} {o p : List Nat}
    (hfst : Pushed s u f o) (hsnd : Pushed u t g p) (hlen : g.length + f.length ≤ 65536) :
    Pushed s t (g ++ f) (o.map (g.length + ·) ++ p) := by
  obtain ⟨v, hv, hwv⟩ := hfst.bytes
  obtain ⟨w, hw, hww⟩ := hsnd.bytes
  have hsp : u.sp = t.sp + BitVec.ofNat 16 g.length := by rw [hsnd.sp, BitVec.sub_add_cancel]
  rw [hsp] at hwv
  have ho := hfst.within
  have hp := hsnd.within
  refine ⟨?_, hsnd.even, ?_, fun k => if k < g.length then w k else v (k - g.length), ?_, ?_⟩
  · have hsum : s.sp - BitVec.ofNat 16 (g ++ f).length = t.sp := by
      rw [hsnd.sp, hfst.sp, List.length_append, BitVec.ofNat_add,
        sub_add_eq_sub_sub_swap]
    rw [hsum, hsnd.state, hfst.state]
  · rw [List.length_append]
    exact ho.append hp
  · intro j hj
    by_cases hlt : j < g.length
    · rw [List.getElem_append_left hlt]
      simpa [hlt] using hw j hlt
    · rw [List.getElem_append_right (by omega)]
      simpa [hlt] using hv (j - g.length) (by rw [List.length_append] at hj; omega)
  · refine writesBytes_trans hfst.cfg (writesBytes_values ?_ (writesBytes_shift hwv))
      (writesBytes_values (fun k hk => by simp [hp k hk]) hww) ?_
    · simp
    · intro j hj k hk h
      obtain ⟨i, hi, rfl⟩ := List.mem_map.mp hj
      have hi := ho i hi
      have hk := hp k hk
      have := offset_inj t.sp (by omega) (by omega) h
      omega

/-- One push after another. -/
theorem Pushes.andThen {op op' : State → Res State} {s : State} {f g : List StackByte}
    {o p : List Nat} (hfst : Pushes op s f o) (hsnd : ∀ u, Pushed s u f o → Pushes op' u g p)
    (hlen : g.length + f.length ≤ 65536) :
    Pushes (fun s => Machine.andThen (op s) op') s (g ++ f) (o.map (g.length + ·) ++ p) := by
  have hbase : s.sp - BitVec.ofNat 16 (g ++ f).length =
      s.sp - BitVec.ofNat 16 f.length - BitVec.ofNat 16 g.length := by
    rw [List.length_append, BitVec.ofNat_add, sub_add_eq_sub_sub_swap]
  rw [Pushes, firstStop_append, firstStop_shift, hbase, BitVec.sub_add_cancel]
  refine StopsOr.andThen hfst fun u hu => ?_
  have h := hsnd u hu
  rw [Pushes, writeStop_congr hu.cfg, hu.sp] at h
  exact h.imp_next fun t _ ht => hu.trans ht hlen

theorem Pushes.of_eq {op op' : State → Res State} {s : State} {f : List StackByte} {o : List Nat}
    (heq : op s = op' s) (h : Pushes op' s f o) : Pushes op s f o := by
  rw [Pushes, heq]
  exact h

/-- An item that is not in the list pushes the empty frame. -/
theorem Pushes.whenListed {op : State → Res State} {s : State} {f : List StackByte} {o : List Nat}
    {listed : Bool} (hsp : s.sp.getLsbD 0 = false) (h : listed = true → Pushes op s f o) :
    Pushes (Machine.whenListed listed op) s (if listed then f else [])
      (if listed then o else []) := by
  cases listed with
  | true => exact h rfl
  | false => exact .next (.nil hsp)

/-! ## The items of a PUSH -/

/-- An even number of given bytes. -/
theorem pushBytes_pushes {s : State} {bs : List Byte} (hsp : s.sp.getLsbD 0 = false)
    (hlen : bs.length ≤ 65536) (heven : bs.length % 2 = 0) :
    Pushes (pushBytes · bs) s (bs.map .exactly) (List.range bs.length) := by
  rw [Pushes, List.length_map]
  have hstop : StopsOr (pushBytes s bs) (firstStop (writeStop s 0x00#8)
      (s.sp - BitVec.ofNat 16 bs.length) (List.range bs.length)) fun _ => True := by
    simp only [pushBytes, State.memWrite, accessBase_of_even (even_sub hsp heven)]
    exact (writeBytes_stopsOr s 0x00#8 _ bs).andThen_none fun t _ => .next trivial
  refine hstop.imp_next fun t ht _ => ?_
  obtain ⟨heq, hev, -, hwrites⟩ := pushBytes_spec hsp hlen heven ht
  refine ⟨?_, hev, by simp [Within], _, fun j hj => ?_, hwrites⟩
  · rw [List.length_map, heq]
  · rw [List.length_map] at hj
    simp [StackByte.admits, hj]

/-- One byte under a dummy byte. -/
theorem pushByte_pushes {s : State} (hsp : s.sp.getLsbD 0 = false) (v : Byte) :
    Pushes (pushByte · v) s [.exactly v, .anyByte] [1, 0] := by
  have hstop : StopsOr (pushByte s v)
      (firstStop (writeStop s 0x00#8) (s.sp - BitVec.ofNat 16 2) [1, 0]) fun _ => True := by
    simp only [pushByte, firstStop_cons, BitVec.add_zero]
    refine (writeByte_stopsOr ..).andThen fun t ht => ?_
    rw [← writeStop_congr ht]
    exact (writeByte_stopsOr ..).andThen fun u _ => .next trivial
  refine hstop.imp_next fun t ht _ => ?_
  obtain ⟨heq, hwrites⟩ := pushByte_spec ht
  have hspt : t.sp = s.sp - 2#16 := by rw [heq]
  refine ⟨?_, ?_, by simp [Within], _, ?_, hspt ▸ hwrites⟩
  · rw [heq]
    rfl
  · rw [hspt]
    exact even_sub (n := 2) hsp rfl
  · intro j hj
    have hj : j < 2 := hj
    interval_cases j <;> simp [StackByte.admits]

theorem length_codeAddrFrame (s : State) (off : Word) (seg : Nibble) :
    (codeAddrFrame s off seg).length = linkSize s := by
  unfold codeAddrFrame linkSize
  split <;> rfl

/-- A code address, in the LARGE model with its segment and a dummy byte. -/
theorem pushCodeAddr_pushes {s : State} (hsp : s.sp.getLsbD 0 = false) (off : Word) (seg : Nibble) :
    Pushes (pushCodeAddr · off seg) s (codeAddrFrame s off seg) (linkPushOrder s) := by
  cases hm : s.cfg.model with
  | small =>
    have h := pushBytes_pushes (bs := [loByte off, hiByte off]) hsp (by simp) (by simp)
    have hframe : codeAddrFrame s off seg = [loByte off, hiByte off].map .exactly := by
      simp [codeAddrFrame, hm, loByte, hiByte]
    have horder : linkPushOrder s = List.range 2 := by simp [linkPushOrder, hm, List.range_succ]
    rw [hframe, horder]
    exact .of_eq (pushCodeAddr_small hm off seg) h
  | large =>
    have hframe : codeAddrFrame s off seg =
        [.exactly (loByte off), .exactly (hiByte off), .lowNibble seg, .anyByte] := by
      simp [codeAddrFrame, hm, loByte, hiByte]
    have horder : linkPushOrder s = [3, 2, 0, 1] := by simp [linkPushOrder, hm]
    have hev : (s.sp - 4#16).getLsbD 0 = false := even_sub (n := 4) hsp rfl
    have hstop : StopsOr (pushCodeAddr s off seg) (firstStop (writeStop s 0x00#8)
        (s.sp - BitVec.ofNat 16 4) [3, 2, 0, 1]) fun _ => True := by
      simp only [pushCodeAddr, State.isLarge, hm, beq_self_eq_true, if_true, State.memWrite,
        accessBase_of_even hev, firstStop_cons]
      refine (writeByte_stopsOr ..).andThen fun t ht => ?_
      rw [← writeStop_congr ht]
      refine (writeByte_stopsOr ..).andThen fun u hu => ?_
      rw [← writeStop_congr hu]
      simp only [← firstStop_cons]
      exact (writeBytes_stopsOr u 0x00#8 (s.sp - 4#16) [loByte off, hiByte off]).andThen_none
        fun v _ => .next trivial
    rw [hframe, horder]
    refine hstop.imp_next fun t ht _ => ?_
    obtain ⟨heq, hwrites⟩ := pushCodeAddr_large hm hsp ht
    have hspt : t.sp = s.sp - 4#16 := by rw [heq]
    refine ⟨?_, hspt ▸ hev, by simp [Within], _, ?_, hspt ▸ hwrites⟩
    · rw [heq]
      rfl
    · intro j hj
      have hj : j < 4 := hj
      interval_cases j
      · rfl
      · rfl
      · exact loNibble_append _ _
      · trivial

/-! ## PUSH of registers -/

/-- A single register pushes its bytes, a byte register a dummy byte above it. -/
theorem exec_of_pushRegOf_ready {i : Instr} {s : State} {n : RegNo} {k : Nat}
    (h : pushRegOf i = some (n, k)) (hprefix : s.dsrPrefix = false) (hsp : s.sp.getLsbD 0 = false) :
    ∃ (op : State → Res State) (frame : List StackByte),
      exec i s = andThen (op s) (fun t => .next (t.advance 1)) ∧ frame.length = stackRoom k ∧
      (∀ j < k, frame[j]? = some (.exactly (s.r (n + BitVec.ofNat 4 j)))) ∧
      Pushes op s frame (pushRegOrder k) := by
  have hready := stackReady_of_even hprefix hsp
  rcases exec_of_pushRegOf h with ⟨rfl, rfl⟩ | ⟨hk, hexec⟩
  · refine ⟨(pushByte · (s.r n)), _, ?_, rfl, fun j hj => ?_, pushByte_pushes hsp (s.r n)⟩
    · show andThen (stackReady s) _ = _
      rw [hready]
      rfl
    · obtain rfl : j = 0 := by omega
      simp
  · have hlen := rBytes_length s n k
    have hpush := pushBytes_pushes (bs := s.rBytes n k) hsp (by omega) (by omega)
    rw [hlen] at hpush
    have hne : k ≠ 1 := by omega
    refine ⟨(pushBytes · (s.rBytes n k)), (s.rBytes n k).map .exactly, ?_, ?_, fun j hj => ?_, ?_⟩
    · rw [hexec, pushRegs, hready]
      rfl
    · simp [hlen, stackRoom, hne]
    · simp [rBytes_getElem? s n k j hj]
    · rw [pushRegOrder, if_neg hne]
      exact hpush

theorem pushRegOrder_lt {k j : Nat} (h : j ∈ pushRegOrder k) :
    j < stackRoom k := by
  unfold pushRegOrder at h
  unfold stackRoom
  split_ifs at h ⊢
  · fin_cases h <;> decide
  · exact List.mem_range.mp h

/-- The end of a PUSH: only PC and the latches change after the last item. -/
theorem framePush_of_pushed {s t : State} {frame : List StackByte} {order : List Nat}
    (h : Pushed s t frame order) : FramePush s (t.advance 1) := by
  rw [FramePush, h.state]
  rfl

/-- Settles O35. -/
theorem pushStoresRegistersBelowTheStackPointer :
    Obligations.PushStoresRegistersBelowTheStackPointer := by
  intro s i n k hi hprefix hsp base hw
  obtain ⟨op, frame, hexec, hlen, hframe, hpush⟩ := exec_of_pushRegOf_ready hi hprefix hsp
  rw [Pushes, hlen, firstStop_of_writable hw fun j => pushRegOrder_lt] at hpush
  obtain ⟨u, hu, hpushed⟩ := hpush
  obtain ⟨v, hv, hwrites⟩ := hpushed.bytes
  have hspu : u.sp = base := by rw [hpushed.sp, hlen]
  refine ⟨u.advance 1, v, ?_, framePush_of_pushed hpushed, hspu, fun j hj => ?_, ?_⟩
  · rw [hexec, hu]
    rfl
  · obtain ⟨hj', hbyte⟩ := List.getElem?_eq_some_iff.mp (hframe j hj)
    have hadmits := hv j hj'
    rwa [hbyte] at hadmits
  · exact writesBytes_congr rfl rfl rfl rfl (hspu ▸ hwrites)

/-! ## PUSH of lists -/

/-- What a push leaves alone is what later items store. -/
theorem Pushed.keeps {s t : State} {frame : List StackByte} {order : List Nat}
    (h : Pushed s t frame order) :
    codeAddrFrame t = codeAddrFrame s ∧ linkPushOrder t = linkPushOrder s ∧ t.epsw = s.epsw ∧
      t.lr = s.lr ∧ t.lcsr = s.lcsr ∧ t.ea = s.ea ∧ t.psw = s.psw ∧ t.hasBank = s.hasBank := by
  rw [h.state]
  refine ⟨rfl, rfl, ?_, rfl, rfl, rfl, rfl, ?_⟩
  · funext k
    cases k <;> rfl
  · funext k
    cases k <;> rfl

/-- LCSR is in the frame in the LARGE model alone, where it reads as it is. -/
theorem codeAddrFrame_linkSeg (s : State) :
    codeAddrFrame s s.lr s.linkSeg = codeAddrFrame s s.lr s.lcsr := by
  unfold codeAddrFrame
  split
  · next hm => rw [State.linkSeg, segRead_large hm]
  · rfl

theorem pushElrItem_pushes {s : State} {k : Bank} (hsp : s.sp.getLsbD 0 = false)
    (h : selectBank s .backupAtLevelZero = .next k) :
    Pushes pushElrItem s (codeAddrFrame s (s.elr k) (s.ecsr k)) (linkPushOrder s) :=
  .of_eq (by rw [pushElrItem, h]; rfl) (pushCodeAddr_pushes hsp _ _)

theorem pushEpswItem_pushes {s : State} {k : Bank} (hsp : s.sp.getLsbD 0 = false)
    (h : selectBank s .backupAtLevelZero = .next k) :
    Pushes pushEpswItem s [.exactly (s.epsw k), .anyByte] [1, 0] :=
  .of_eq (by rw [pushEpswItem, h]; rfl) (pushByte_pushes hsp _)

theorem pushLrItem_pushes {s : State} (hsp : s.sp.getLsbD 0 = false) :
    Pushes pushLrItem s (codeAddrFrame s s.lr s.lcsr) (linkPushOrder s) :=
  codeAddrFrame_linkSeg s ▸ pushCodeAddr_pushes hsp s.lr s.linkSeg

theorem pushEaItem_pushes {s : State} (hsp : s.sp.getLsbD 0 = false) :
    Pushes pushEaItem s [.exactly (loByte s.ea), .exactly (hiByte s.ea)] [0, 1] :=
  pushBytes_pushes (bs := [loByte s.ea, hiByte s.ea]) hsp (by simp) (by simp)

/-- The items of a PUSH list, ELR first, without the test before them and the end after them. -/
def pushItems (x : StackList) (s : State) : Res State :=
  andThen (andThen (andThen (whenListed x.pc pushElrItem s) (whenListed x.psw pushEpswItem))
    (whenListed x.lr pushLrItem)) (whenListed x.ea pushEaItem)

theorem pushList_eq_pushItems {s : State} (x : StackList) (h : stackReady s = .next s) :
    pushList x.lr x.psw x.pc x.ea s = andThen (pushItems x s) fun t => .next (t.advance 1) := by
  simp only [pushList, pushItems, h, andThen_next, andThen_assoc]

theorem selectBank_of_pushed {s t : State} {frame : List StackByte} {order : List Nat}
    (h : Pushed s t frame order) (why : Refusal) : selectBank t why = selectBank s why := by
  obtain ⟨-, -, -, -, -, -, hpsw, hhas⟩ := h.keeps
  rw [selectBank, selectBank, State.bank, State.bank, hpsw, hhas]

theorem linkSize_le (s : State) : linkSize s ≤ 4 := by
  unfold linkSize
  split <;> decide

theorem length_ite_nil (c : Bool) (f : List StackByte) :
    (if c then f else []).length = if c then f.length else 0 := by
  cases c <;> rfl

/-- The items of a list in the order they are pushed, each moved up by the sizes of those after it.
-/
theorem pushListOrder_eq (s : State) (x : StackList) :
    pushListOrder s x =
      (((if x.pc then linkPushOrder s else []).map ((if x.psw then 2 else 0) + ·) ++
        (if x.psw then [1, 0] else [])).map ((if x.lr then linkSize s else 0) + ·) ++
        (if x.lr then linkPushOrder s else [])).map ((if x.ea then 2 else 0) + ·) ++
        (if x.ea then [0, 1] else []) := by
  have hnil : ∀ (c : Bool) (l : List Nat) (f : Nat → Nat),
      (if c then l else []).map f = if c then l.map f else [] := fun c l f => by cases c <;> rfl
  simp only [pushListOrder, StackList.pcAt, StackList.pswAt, StackList.lrAt, List.map_append,
    List.map_map, Function.comp_def, Nat.add_assoc, hnil, List.map_cons, List.map_nil, Nat.add_zero]

theorem linkPushOrder_within (s : State) : Within (linkPushOrder s) (linkSize s) := by
  unfold Within linkPushOrder linkSize
  split <;> simp

theorem pushListOrder_within (s : State) (x : StackList) :
    Within (pushListOrder s x) (x.size s) := by
  have hsize : x.size s = (if x.ea then 2 else 0) + ((if x.lr then linkSize s else 0) +
      ((if x.psw then 2 else 0) + if x.pc then linkSize s else 0)) := by
    simp only [StackList.size, StackList.pcAt, StackList.pswAt, StackList.lrAt, Nat.add_assoc]
  have hlink := linkPushOrder_within s
  have htwo : Within [1, 0] 2 := by simp [Within]
  have htwo' : Within [0, 1] 2 := by simp [Within]
  rw [pushListOrder_eq, hsize]
  exact ((hlink.ite.append htwo.ite).append hlink.ite).append htwo'.ite

/-- The items push the frame of the list. -/
theorem pushItems_pushes {s : State} {x : StackList} {k : Bank} (hsp : s.sp.getLsbD 0 = false)
    (hk : (x.psw || x.pc) = true → selectBank s .backupAtLevelZero = .next k) :
    Pushes (pushItems x) s (pushFrame s x k) (pushListOrder s x) := by
  have hlink := length_codeAddrFrame s
  have hle := linkSize_le s
  have h1 := Pushes.whenListed (listed := x.pc) hsp fun hpc =>
    pushElrItem_pushes hsp (hk (by simp [hpc]))
  have h2 := h1.andThen (op' := whenListed x.psw pushEpswItem)
    (g := if x.psw then [.exactly (s.epsw k), .anyByte] else []) (p := if x.psw then [1, 0] else [])
    (fun u hu => .whenListed hu.even fun hpsw => ?psw)
    (by simp only [length_ite_nil, hlink, List.length_cons, List.length_nil]; split_ifs <;> omega)
  have h3 := h2.andThen (op' := whenListed x.lr pushLrItem)
    (g := if x.lr then codeAddrFrame s s.lr s.lcsr else [])
    (p := if x.lr then linkPushOrder s else [])
    (fun u hu => .whenListed hu.even fun _ => ?lr)
    (by
      simp only [length_ite_nil, hlink, List.length_append, List.length_cons, List.length_nil]
      split_ifs <;> omega)
  have h4 := h3.andThen (op' := whenListed x.ea pushEaItem)
    (g := if x.ea then [.exactly (loByte s.ea), .exactly (hiByte s.ea)] else [])
    (p := if x.ea then [0, 1] else [])
    (fun u hu => .whenListed hu.even fun _ => ?ea)
    (by
      simp only [length_ite_nil, hlink, List.length_append, List.length_cons, List.length_nil]
      split_ifs <;> omega)
  case psw =>
    obtain ⟨-, -, hepsw, -⟩ := hu.keeps
    rw [← hepsw]
    exact pushEpswItem_pushes hu.even
      ((selectBank_of_pushed hu _).trans (hk (by simp [hpsw])))
  case lr =>
    obtain ⟨hframe, horder, -, hlr, hlcsr, -⟩ := hu.keeps
    rw [← hframe, ← horder, ← hlr, ← hlcsr]
    exact pushLrItem_pushes hu.even
  case ea =>
    obtain ⟨-, -, -, -, -, hea, -⟩ := hu.keeps
    rw [← hea]
    exact pushEaItem_pushes hu.even
  rw [pushListOrder_eq]
  simp only [length_ite_nil, hlink, List.length_cons, List.length_nil] at h4
  rw [pushFrame, List.append_assoc, List.append_assoc]
  exact h4

theorem length_pushFrame (s : State) (x : StackList) (k : Bank) :
    (pushFrame s x k).length = x.size s := by
  simp only [pushFrame, List.length_append, length_ite_nil, length_codeAddrFrame, List.length_cons,
    List.length_nil, StackList.size, StackList.pcAt, StackList.pswAt, StackList.lrAt]

/-- A list that asks for no set can be said to have any. -/
theorem selectBank_of_listed {s : State} {x : StackList} {k : Bank}
    (h : (x.psw || x.pc) = true →
      elevel s.psw = k.level ∧ (k = .three → s.cfg.hasLevel3 = true))
    (hx : (x.psw || x.pc) = true) : selectBank s .backupAtLevelZero = .next k := by
  obtain ⟨hlevel, hthree⟩ := h hx
  exact selectBank_of_level hlevel (hasBank_of hthree) _

/-- Settles O37. -/
theorem pushListsStoreTheirFramesInOrder : Obligations.PushListsStoreTheirFramesInOrder := by
  intro s i x k hi hprefix hsp hk frame base hw
  have hpush := pushItems_pushes hsp (selectBank_of_listed hk)
  have hwithin : Within (pushListOrder s x) frame.length :=
    length_pushFrame s x k ▸ pushListOrder_within s x
  rw [Pushes, firstStop_of_writable hw hwithin] at hpush
  obtain ⟨u, hu, hpushed⟩ := hpush
  obtain ⟨v, hv, hwrites⟩ := hpushed.bytes
  have hspu : u.sp = base := hpushed.sp
  refine ⟨u.advance 1, v, ?_, framePush_of_pushed hpushed, hspu, hv, ?_⟩
  · rw [exec_of_pushListOf hi, pushList_eq_pushItems x (stackReady_of_even hprefix hsp), hu]
    rfl
  · exact writesBytes_congr rfl rfl rfl rfl (hspu ▸ hwrites)

end Sys2Proof.Machine
end

section
/-! PROOFS. What POP does, and that it undoes PUSH (spec/44_push_pop.md R251 to R256). -/

namespace Sys2Proof.Machine

/-! ## Reads put together -/

/-- Reads look at the parameters, the two memories and what the devices have seen alone. -/
theorem readsBytes_congr_state {s t : State} {seg : Byte} {a : Word} {b : Nat → Byte}
    {order : List Nat} (hcfg : t.cfg = s.cfg) (hcode : t.code = s.code) (hdata : t.data = s.data)
    (hlog : t.deviceLog = s.deviceLog) :
    ReadsBytes t seg a b order ↔ ReadsBytes s seg a b order := by
  induction order generalizing s t with
  | nil => rfl
  | cons k order ih =>
    have hlog' : (t.afterRead seg (a + BitVec.ofNat 16 k)).deviceLog =
        (s.afterRead seg (a + BitVec.ofNat 16 k)).deviceLog := by
      simp only [State.afterRead, hcfg, hlog]
    rw [ReadsBytes, ReadsBytes, readByte_congr hcfg hcode hdata hlog, ih (s := s.afterRead seg _)
      (t := t.afterRead seg _) hcfg hcode hdata hlog']

/-- Reads at distances moved up by `n` from `a` are reads from `a + n`. -/
theorem readsBytes_shift {s : State} {seg : Byte} {a : Word} {b : Nat → Byte} {n : Nat}
    {order : List Nat} :
    ReadsBytes s seg a b (order.map (n + ·)) ↔
      ReadsBytes s seg (a + BitVec.ofNat 16 n) (fun k => b (n + k)) order := by
  induction order generalizing s with
  | nil => rfl
  | cons k order ih => rw [List.map_cons, ReadsBytes, ReadsBytes, add_ofNat_add, ih]

theorem readsSeen_cons (cfg : Config) (seg : Byte) (a : Word) (k : Nat) (order : List Nat) :
    readsSeen cfg seg a (k :: order) =
      deviceSees cfg seg (a + BitVec.ofNat 16 k) .read ++ readsSeen cfg seg a order :=
  List.flatMap_cons

theorem readsSeen_append (cfg : Config) (seg : Byte) (a : Word) (o p : List Nat) :
    readsSeen cfg seg a (o ++ p) = readsSeen cfg seg a o ++ readsSeen cfg seg a p :=
  List.flatMap_append

theorem readsSeen_shift (cfg : Config) (seg : Byte) (a : Word) (n : Nat) (o : List Nat) :
    readsSeen cfg seg a (o.map (n + ·)) = readsSeen cfg seg (a + BitVec.ofNat 16 n) o := by
  simp only [readsSeen, List.flatMap_map, add_ofNat_add]

/-- Reads followed by more reads, from a state in which the devices have seen the first. -/
theorem readsBytes_append {s u : State} {seg : Byte} {a : Word} {b : Nat → Byte} {o p : List Nat}
    (hcfg : u.cfg = s.cfg) (hcode : u.code = s.code) (hdata : u.data = s.data)
    (hlog : u.deviceLog = s.deviceLog ++ readsSeen s.cfg seg a o) :
    ReadsBytes s seg a b (o ++ p) ↔ ReadsBytes s seg a b o ∧ ReadsBytes u seg a b p := by
  induction o generalizing s with
  | nil =>
    have hlog : u.deviceLog = s.deviceLog := by simpa [readsSeen] using hlog
    simp [ReadsBytes, readsBytes_congr_state hcfg hcode hdata hlog]
  | cons k o ih =>
    rw [List.cons_append, ReadsBytes, ReadsBytes,
      ih (s := s.afterRead seg _) hcfg hcode hdata
        (by rw [hlog, readsSeen_cons, ← List.append_assoc]; rfl), and_assoc]

/-- Bytes that are no device's, read one after the other. -/
theorem readsBytes_of_memory {s : State} {seg : Byte} {a : Word} {b : Nat → Byte}
    {order : List Nat}
    (h : ∀ k ∈ order, isDevice s.cfg seg (a + BitVec.ofNat 16 k) = false ∧
      s.readByte seg (a + BitVec.ofNat 16 k) = .next (b k)) : ReadsBytes s seg a b order := by
  induction order generalizing s with
  | nil => trivial
  | cons k order ih =>
    refine ⟨(h k List.mem_cons_self).2, ih fun j hj => ?_⟩
    obtain ⟨hd, hr⟩ := h j (List.mem_cons_of_mem k hj)
    exact ⟨hd, (readByte_congr_memory (s := s) (t := s.afterRead seg _) rfl rfl rfl hd).trans hr⟩

/-! ## The state after a pop -/

/-- The state once these bytes of the stack are read and SP has moved over the `n` bytes they lie
in, AR holding `ar`. -/
def State.afterPop (s : State) (ar : Word) (n : Nat) (order : List Nat) : State :=
  { s with ar := ar, sp := s.sp + BitVec.ofNat 16 n,
           deviceLog := s.deviceLog ++ readsSeen s.cfg 0x00#8 s.sp order }

theorem afterPop_nil (s : State) : s.afterPop s.ar 0 [] = s := by
  simp [State.afterPop, readsSeen]

theorem afterPop_afterPop (s : State) (x y : Word) (m n : Nat) (o p : List Nat) :
    (s.afterPop x m o).afterPop y n p = s.afterPop y (m + n) (o ++ p.map (m + ·)) := by
  simp only [State.afterPop, add_ofNat_add, readsSeen_append, readsSeen_shift, List.append_assoc]

theorem readsBytes_prefix {s : State} {seg : Byte} {a : Word} {b : Nat → Byte} {o p : List Nat}
    (h : ReadsBytes s seg a b (o ++ p)) : ReadsBytes s seg a b o :=
  ((readsBytes_append (s := s)
    (u := { s with deviceLog := s.deviceLog ++ readsSeen s.cfg seg a o }) rfl rfl rfl rfl).mp h).1

theorem even_add {a : Word} {n : Nat} (h : a.getLsbD 0 = false) (hn : n % 2 = 0) :
    (a + BitVec.ofNat 16 n).getLsbD 0 = false := by
  rw [even_iff] at *
  rw [BitVec.toNat_add, BitVec.toNat_ofNat]
  omega

/-! ## The items of a POP -/

theorem popEaItem_of_reads {s : State} {b : Nat → Byte} (hsp : s.sp.getLsbD 0 = false)
    (h : ReadsBytes s 0x00#8 s.sp b [0, 1]) :
    ∃ a, popEaItem s = .next { s.afterPop a 2 [0, 1] with ea := b 1 ++ b 0 } := by
  have hread := readBytes_of_reads (n := 2) h
  refine ⟨s.sp + 1#16, ?_⟩
  rw [popEaItem, State.memRead, accessBase_of_even hsp, hread, andThen_next, ← leWord_two]
  rfl

theorem popPswItem_of_reads {s : State} {b : Nat → Byte} (h : ReadsBytes s 0x00#8 s.sp b [0]) :
    ∃ a, popPswItem s = .next { s.afterPop a 2 [0] with psw := b 0 } := by
  obtain ⟨hread, -⟩ := h
  rw [BitVec.add_zero] at hread
  refine ⟨s.sp, ?_⟩
  rw [popPswItem, hread, andThen_next]
  simp [State.afterPop, State.afterRead, State.popped, readsSeen]

/-- A code address that can be read. -/
theorem popCodeAddr_goesOn {s : State} {b : Nat → Byte} (use : State → Word → Nibble → State)
    (hsp : s.sp.getLsbD 0 = false) (h : ReadsBytes s 0x00#8 s.sp b (linkPopOrder s)) :
    ∃ t, popCodeAddr s use = .next t := by
  have hoffset : ∀ p, ReadsBytes s 0x00#8 s.sp b ([0, 1] ++ p) → ∃ u,
      s.memRead 0x00#8 s.sp 2 = .next ((List.range 2).map b, u) ∧ ReadsBytes u 0x00#8 s.sp b p :=
    fun p hp => by
      rw [State.memRead, accessBase_of_even hsp]
      obtain ⟨hbytes, hp⟩ := (readsBytes_append (s := s) (u := s.afterPop s.ar 0 [0, 1]) rfl rfl rfl
        rfl).mp hp
      refine ⟨_, readBytes_of_reads (n := 2) hbytes, ?_⟩
      refine (readsBytes_congr_state (s := s.afterPop s.ar 0 [0, 1]) ?_ ?_ ?_ ?_).mpr hp <;> rfl
  cases hm : s.cfg.model with
  | small =>
    obtain ⟨u, hread, -⟩ := hoffset [] (by simpa [linkPopOrder, hm] using h)
    simp [popCodeAddr, hread, State.isLarge, hm]
  | large =>
    obtain ⟨u, hread, hseg, -⟩ := hoffset [2] (by simpa [linkPopOrder, hm] using h)
    simp only [popCodeAddr, hread, State.isLarge, hm, beq_self_eq_true, if_true, andThen_next]
    exact ⟨_, andThen_eq_next.mpr ⟨_, hseg, rfl⟩⟩

/-- What is made of a code address that can be read: its offset and its segment are given on. -/
theorem popCodeAddr_of_reads {s : State} {b : Nat → Byte} (use : State → Word → Nibble → State)
    (hsp : s.sp.getLsbD 0 = false) (h : ReadsBytes s 0x00#8 s.sp b (linkPopOrder s)) :
    ∃ a, popCodeAddr s use = .next (use (s.afterPop a (linkSize s) (linkPopOrder s)) (b 1 ++ b 0)
      (if s.cfg.model = .large then loNibble (b 2) else 0x0#4)) := by
  obtain ⟨t, ht⟩ := popCodeAddr_goesOn use hsp h
  obtain ⟨b', u, hreads, hu, heq⟩ := popCodeAddr_spec hsp ht
  have hsame := readsBytes_unique hreads h
  have h0 : b' 0 = b 0 := hsame 0 (by unfold linkPopOrder; split <;> simp)
  have h1 : b' 1 = b 1 := hsame 1 (by unfold linkPopOrder; split <;> simp)
  have h2 : (if s.cfg.model = .large then loNibble (b' 2) else 0x0#4) =
      if s.cfg.model = .large then loNibble (b 2) else 0x0#4 := by
    split
    · next hm => rw [hsame 2 (by simp [linkPopOrder, hm])]
    · rfl
  refine ⟨u.ar, ht.trans (congrArg _ ?_)⟩
  rw [heq, h0, h1, h2, hu]
  rfl

/-! ## POP of lists -/

/-- The two states have the same parameters, memory, SP and device log: a pop reads the same in
both. -/
structure SameStack (s t : State) : Prop where
  cfg : t.cfg = s.cfg
  code : t.code = s.code
  data : t.data = s.data
  sp : t.sp = s.sp
  log : t.deviceLog = s.deviceLog

/-- A pop on top of a pop. -/
theorem SameStack.afterPop {s u v : State} {x y a : Word} {m n : Nat} {o p : List Nat}
    (hu : SameStack (s.afterPop x m o) u) (hv : SameStack (u.afterPop a n p) v) :
    SameStack (s.afterPop y (m + n) (o ++ p.map (m + ·))) v := by
  rw [← afterPop_afterPop (x := x)]
  refine ⟨hv.cfg.trans hu.cfg, hv.code.trans hu.code, hv.data.trans hu.data, hv.sp.trans ?_,
    hv.log.trans ?_⟩
  · exact congrArg (· + BitVec.ofNat 16 n) hu.sp
  · show u.deviceLog ++ readsSeen u.cfg 0x00#8 u.sp p = _
    rw [hu.log, hu.cfg, hu.sp]
    rfl

/-- The bytes above those popped so far. -/
theorem SameStack.reads {s u : State} {b : Nat → Byte} {x : Word} {n : Nat} {o p : List Nat}
    (hu : SameStack (s.afterPop x n o) u)
    (h : ReadsBytes s 0x00#8 s.sp b (o ++ p.map (n + ·))) :
    ReadsBytes u 0x00#8 u.sp (fun k => b (n + k)) p := by
  rw [hu.sp]
  exact readsBytes_shift.mp ((readsBytes_append (s := s) hu.cfg hu.code hu.data hu.log).mp h).2

/-- What an item makes of the bytes popped for it: `use b listed t` is `t`, after the pop, with the
item's registers taken from `b` if it is listed. -/
structure PopItem (op : State → Res State) (n : Nat) (order : List Nat)
    (use : (Nat → Byte) → Bool → State → State) (cfg : Config) : Prop where
  done : ∀ {u : State} {b : Nat → Byte}, u.cfg = cfg → u.sp.getLsbD 0 = false →
    ReadsBytes u 0x00#8 u.sp b order → ∃ a, op u = .next (use b true (u.afterPop a n order))
  skipped : ∀ b t, use b false t = t
  keeps : ∀ b listed t, SameStack t (use b listed t)

/-- An item of a list, after others. -/
theorem PopItem.listed {op : State → Res State} {n m : Nat} {order o : List Nat}
    {use : (Nat → Byte) → Bool → State → State} {s u : State} {b : Nat → Byte} {listed : Bool}
    (item : PopItem op n order use s.cfg) (hsp : s.sp.getLsbD 0 = false) (hm : m % 2 = 0)
    (hu : SameStack (s.afterPop s.ar m o) u)
    (h : ReadsBytes s 0x00#8 s.sp b (o ++ (if listed then order else []).map (m + ·))) :
    ∃ a v, v = use (fun k => b (m + k)) listed
        (u.afterPop a (if listed then n else 0) (if listed then order else [])) ∧
      whenListed listed op u = .next v ∧
      SameStack (s.afterPop s.ar (m + if listed then n else 0)
        (o ++ (if listed then order else []).map (m + ·))) v := by
  have hreads := hu.reads h
  have hstep : ∃ a, whenListed listed op u = .next (use (fun k => b (m + k)) listed
      (u.afterPop a (if listed then n else 0) (if listed then order else []))) := by
    cases listed with
    | true => exact item.done hu.cfg (hu.sp ▸ even_add hsp hm) hreads
    | false => exact ⟨u.ar, congrArg _ ((afterPop_nil u).symm.trans (item.skipped _ _).symm)⟩
  obtain ⟨a, hnext⟩ := hstep
  exact ⟨a, _, rfl, hnext, hu.afterPop (item.keeps _ _ _)⟩

/-- EA taken from the stack, or not. -/
def usePopEa (b : Nat → Byte) (listed : Bool) (t : State) : State :=
  { t with ea := if listed then b 1 ++ b 0 else t.ea }

/-- LR and, in the LARGE model, LCSR taken from the stack, or not. -/
def usePopLr (b : Nat → Byte) (listed : Bool) (t : State) : State :=
  { t with lr := if listed then evenAddr (b 1 ++ b 0) else t.lr
           lcsr := if listed && decide (t.cfg.model = .large) then loNibble (b 2) else t.lcsr }

/-- PSW taken from the stack, or not. -/
def usePopPsw (b : Nat → Byte) (listed : Bool) (t : State) : State :=
  { t with psw := if listed then b 0 else t.psw }

/-- PC and, in the LARGE model, CSR taken from the stack, or the next instruction; the end of a POP.
-/
def usePopPc (b : Nat → Byte) (listed : Bool) (t : State) : State :=
  { t with pc := if listed then evenAddr (b 1 ++ b 0) else t.nextPc 1
           csr := if listed && decide (t.cfg.model = .large) then loNibble (b 2) else t.csr
           dsrPrefix := false, intBlock := false }

theorem popEaItem_item (cfg : Config) : PopItem popEaItem 2 [0, 1] usePopEa cfg :=
  ⟨fun _ hsp h => popEaItem_of_reads hsp h, fun _ _ => rfl, fun _ _ _ => ⟨rfl, rfl, rfl, rfl, rfl⟩⟩

theorem popPswItem_item (cfg : Config) : PopItem popPswItem 2 [0] usePopPsw cfg :=
  ⟨fun _ _ h => popPswItem_of_reads h, fun _ _ => rfl, fun _ _ _ => ⟨rfl, rfl, rfl, rfl, rfl⟩⟩

theorem linkSize_congr {s u : State} (h : u.cfg = s.cfg) : linkSize u = linkSize s := by
  rw [linkSize, linkSize, h]

theorem linkPopOrder_congr {s u : State} (h : u.cfg = s.cfg) : linkPopOrder u = linkPopOrder s := by
  rw [linkPopOrder, linkPopOrder, h]

theorem popLrItem_item (s : State) :
    PopItem popLrItem (linkSize s) (linkPopOrder s) usePopLr s.cfg := by
  refine ⟨fun {u b} hcfg hsp h => ?_, fun _ _ => rfl, fun _ _ _ => ⟨rfl, rfl, rfl, rfl, rfl⟩⟩
  rw [← linkSize_congr hcfg]
  rw [← linkPopOrder_congr hcfg] at h ⊢
  obtain ⟨a, ha⟩ := popCodeAddr_of_reads (fun t off seg => (t.setLinkSeg seg).setLr off) hsp h
  refine ⟨a, ha.trans (congrArg _ ?_)⟩
  cases hm : u.cfg.model <;>
    simp [usePopLr, State.setLinkSeg, State.setLr, segWrite_eq, State.afterPop, hm]

/-- The last item of a POP, or the end without it. -/
theorem popPc_of_reads {s u : State} {b : Nat → Byte} {pc : Bool} (hcfg : u.cfg = s.cfg)
    (hsp : u.sp.getLsbD 0 = false)
    (h : ReadsBytes u 0x00#8 u.sp b (if pc then linkPopOrder s else [])) :
    ∃ a, (if pc then popPcItem u else .next (u.advance 1)) = .next (usePopPc b pc
      (u.afterPop a (if pc then linkSize s else 0) (if pc then linkPopOrder s else []))) := by
  rw [← linkSize_congr hcfg]
  rw [← linkPopOrder_congr hcfg] at h ⊢
  cases pc with
  | true =>
    obtain ⟨a, ha⟩ := popCodeAddr_of_reads (fun t off seg => (t.setCodeSeg seg).jump off) hsp h
    refine ⟨a, ha.trans (congrArg _ ?_)⟩
    cases hm : u.cfg.model <;>
      simp [usePopPc, State.setCodeSeg, State.jump, State.setPc, State.settle, segWrite_eq,
        State.afterPop, hm]
  | false =>
    refine ⟨u.ar, congrArg Host.Outcome.next ?_⟩
    exact congrArg (fun t => State.advance t 1) (afterPop_nil u).symm

/-- The items of a list in the order they are popped, each where it lies. -/
theorem popListOrder_eq (s : State) (x : StackList) :
    popListOrder s x =
      [] ++ (if x.ea then [0, 1] else []).map (0 + ·) ++
        (if x.lr then linkPopOrder s else []).map (x.lrAt + ·) ++
        (if x.psw then [0] else []).map (x.pswAt s + ·) ++
        (if x.pc then linkPopOrder s else []).map (x.pcAt s + ·) := by
  have hnil : ∀ (c : Bool) (l : List Nat) (f : Nat → Nat),
      (if c then l else []).map f = if c then l.map f else [] := fun c l f => by cases c <;> rfl
  simp only [popListOrder, hnil, List.map_cons, List.map_nil, Nat.add_zero, List.nil_append]

theorem linkSize_even (s : State) : linkSize s % 2 = 0 := by
  unfold linkSize
  split <;> rfl

theorem lrAt_even (x : StackList) : x.lrAt % 2 = 0 := by
  unfold StackList.lrAt
  split <;> rfl

theorem pswAt_even (x : StackList) (s : State) : x.pswAt s % 2 = 0 := by
  have h := linkSize_even s
  have h' := lrAt_even x
  unfold StackList.pswAt
  split <;> omega

theorem pcAt_even (x : StackList) (s : State) : x.pcAt s % 2 = 0 := by
  have h := pswAt_even x s
  unfold StackList.pcAt
  split <;> omega

theorem afterPop_usePopEa (b : Nat → Byte) (listed : Bool) (t : State) (a : Word) (n : Nat)
    (order : List Nat) :
    (usePopEa b listed t).afterPop a n order = usePopEa b listed (t.afterPop a n order) := rfl

theorem afterPop_usePopLr (b : Nat → Byte) (listed : Bool) (t : State) (a : Word) (n : Nat)
    (order : List Nat) :
    (usePopLr b listed t).afterPop a n order = usePopLr b listed (t.afterPop a n order) := rfl

theorem afterPop_usePopPsw (b : Nat → Byte) (listed : Bool) (t : State) (a : Word) (n : Nat)
    (order : List Nat) :
    (usePopPsw b listed t).afterPop a n order = usePopPsw b listed (t.afterPop a n order) := rfl

/-- What POP of a list does, if its bytes can be read. -/
theorem popList_of_reads {s : State} {x : StackList} {b : Nat → Byte}
    (hprefix : s.dsrPrefix = false) (hsp : s.sp.getLsbD 0 = false)
    (h : ReadsBytes s 0x00#8 s.sp b (popListOrder s x)) :
    ∃ a, popList x.lr x.psw x.pc x.ea s = .next
      (usePopPc (fun k => b (x.pcAt s + k)) x.pc
        (usePopPsw (fun k => b (x.pswAt s + k)) x.psw
          (usePopLr (fun k => b (x.lrAt + k)) x.lr
            (usePopEa b x.ea (s.afterPop a (x.size s) (popListOrder s x)))))) := by
  rw [popListOrder_eq] at h ⊢
  have hpsw := readsBytes_prefix h
  have hlr := readsBytes_prefix hpsw
  have hea := readsBytes_prefix hlr
  have hstart : SameStack (s.afterPop s.ar 0 []) s := by
    rw [afterPop_nil]
    exact ⟨rfl, rfl, rfl, rfl, rfl⟩
  obtain ⟨a1, u1, e1, h1, hu1⟩ := (popEaItem_item s.cfg).listed hsp rfl hstart hea
  rw [Nat.zero_add] at hu1
  obtain ⟨a2, u2, e2, h2, hu2⟩ := (popLrItem_item s).listed hsp (lrAt_even x) hu1 hlr
  obtain ⟨a3, u3, e3, h3, hu3⟩ := (popPswItem_item s.cfg).listed hsp (pswAt_even x s) hu2 hpsw
  obtain ⟨a4, h4⟩ := popPc_of_reads (s := s) hu3.cfg (hu3.sp ▸ even_add hsp (pcAt_even x s))
    (hu3.reads h)
  refine ⟨a4, ?_⟩
  rw [popList, stackReady_of_even hprefix hsp, andThen_next, h1, andThen_next, h2, andThen_next, h3,
    andThen_next, h4]
  have hsum : (((s.afterPop a1 (if x.ea then 2 else 0) (if x.ea then [0, 1] else [])).afterPop a2
      (if x.lr then linkSize s else 0) (if x.lr then linkPopOrder s else [])).afterPop a3
      (if x.psw then 2 else 0) (if x.psw then [0] else [])).afterPop a4
      (if x.pc then linkSize s else 0) (if x.pc then linkPopOrder s else []) =
      s.afterPop a4 (x.size s) ([] ++ (if x.ea then [0, 1] else []).map (0 + ·) ++
        (if x.lr then linkPopOrder s else []).map (x.lrAt + ·) ++
        (if x.psw then [0] else []).map (x.pswAt s + ·) ++
        (if x.pc then linkPopOrder s else []).map (x.pcAt s + ·)) := by
    simp only [afterPop_afterPop, List.nil_append, Nat.zero_add, List.map_id', StackList.size,
      StackList.pcAt, StackList.pswAt, StackList.lrAt]
  rw [← hsum, e3, e2, e1]
  simp only [afterPop_usePopEa, afterPop_usePopLr, afterPop_usePopPsw, Nat.zero_add,
    StackList.pcAt]

/-- All four uses of popped bytes, one after the other. -/
theorem usePop_eq (t : State) (b0 b1 b2 b3 : Nat → Byte) (ea lr psw pc : Bool) :
    usePopPc b3 pc (usePopPsw b2 psw (usePopLr b1 lr (usePopEa b0 ea t))) =
      { t with
        ea := if ea then b0 1 ++ b0 0 else t.ea
        lr := if lr then evenAddr (b1 1 ++ b1 0) else t.lr
        lcsr := if lr && decide (t.cfg.model = .large) then loNibble (b1 2) else t.lcsr
        psw := if psw then b2 0 else t.psw
        pc := if pc then evenAddr (b3 1 ++ b3 0) else t.nextPc 1
        csr := if pc && decide (t.cfg.model = .large) then loNibble (b3 2) else t.csr
        dsrPrefix := false, intBlock := false } := rfl

/-- Settles O38. -/
theorem popListsLoadTheirFramesInOrder : Obligations.PopListsLoadTheirFramesInOrder := by
  intro s i x b hi hprefix hsp large atLr atPc h
  obtain ⟨a, ha⟩ := popList_of_reads hprefix hsp h
  rw [usePop_eq] at ha
  exact ⟨_, (exec_of_popListOf hi).trans ha, rfl, rfl, rfl, rfl, rfl, rfl, rfl,
    sameMemory_of_eq rfl rfl rfl⟩

/-! ## POP of registers -/

/-- What POP of registers does, if its bytes can be read. -/
theorem popRegs_of_reads {s : State} {n : RegNo} {k : Nat} {size : Word} {b : Nat → Byte}
    (hprefix : s.dsrPrefix = false) (hsp : s.sp.getLsbD 0 = false)
    (h : ReadsBytes s 0x00#8 s.sp b (List.range k)) :
    ∃ t, popRegs n k size s = .next t ∧
      t = { s with regs := (s.setRBytes n ((List.range k).map b)).regs, sp := s.sp + size,
                   ar := t.ar,
                   deviceLog := s.deviceLog ++ readsSeen s.cfg 0x00#8 s.sp (List.range k)
                   pc := s.nextPc 1, dsrPrefix := false, intBlock := false } := by
  obtain ⟨t, ht⟩ : ∃ t, popRegs n k size s = .next t := by
    simp only [popRegs, stackReady_of_even hprefix hsp, State.memRead, accessBase_of_even hsp,
      readBytes_of_reads h, andThen_next]
    exact ⟨_, rfl⟩
  obtain ⟨-, -, bs, hlen, hreads, heq⟩ := popRegs_spec ht
  obtain rfl := eq_map_of_reads hlen hreads h
  exact ⟨t, ht, heq⟩

/-- Settles O36. -/
theorem popLoadsRegistersFromTheStackPointer :
    Obligations.PopLoadsRegistersFromTheStackPointer := by
  intro s i n k b hi hprefix hsp h
  obtain ⟨hk, hexec⟩ := exec_of_popRegOf hi
  obtain ⟨t, hnext, heq⟩ := popRegs_of_reads (n := n) (size := BitVec.ofNat 16 (stackRoom k))
    hprefix hsp h
  have hregs : t.regs = (s.setRBytes n ((List.range k).map b)).regs := by rw [heq]
  obtain ⟨hkeeps, hloaded⟩ := setRBytes_loads s n b (size := k) (by omega)
  refine ⟨t, hexec.trans hnext, ?_, fun q hq => (r_congr hregs q).trans (hkeeps q hq),
    fun j hj => (r_congr hregs _).trans (hloaded j hj),
    sameMemory_of_eq (by rw [heq]) (by rw [heq]) (by rw [heq])⟩
  rw [heq]

/-! ## POP after PUSH (spec/44_push_pop.md R256) -/

/-- The bytes of a frame pushed where no device lies are read back as they were written. -/
theorem readsBytes_of_written {s t : State} {v : Nat → Byte} {order order' : List Nat}
    (hcfg : t.cfg = s.cfg) (h : WritesBytes s t 0x00#8 t.sp v order)
    (hmem : ∀ k ∈ order', k ∈ order)
    (hdev : ∀ k ∈ order', isDevice s.cfg 0x00#8 (t.sp + BitVec.ofNat 16 k) = false) :
    ReadsBytes t 0x00#8 t.sp v order' :=
  readsBytes_of_memory fun k hk => ⟨hcfg ▸ hdev k hk, h.1 k (hmem k hk) (hdev k hk)⟩

/-- A PUSH or POP that goes on found the stack usable. -/
theorem ready_of_exec_next {i : Instr} {s t : State} (hi : usesStack i = true)
    (h : exec i s = .next t) : s.dsrPrefix = false ∧ s.sp.getLsbD 0 = false := by
  cases hprefix : s.dsrPrefix with
  | true =>
    have hstop := exec_of_stackReady_refused (s := s) (why := .stackAfterPrefix) hi
      (by simp [stackReady, hprefix])
    cases h.symm.trans hstop
  | false =>
    cases hsp : s.sp.getLsbD 0 with
    | true =>
      have hstop := exec_of_stackReady_refused (s := s) (why := .oddStackPointer) hi
        (by simp [stackReady, hprefix, hsp])
      cases h.symm.trans hstop
    | false => exact ⟨rfl, rfl⟩

/-- What a push that went on left, seen after the end of its instruction. -/
theorem pushed_of_next {op : State → Res State} {s t : State} {frame : List StackByte}
    {order : List Nat} (hpush : Pushes op s frame order)
    (h : andThen (op s) (fun u => .next (u.advance 1)) = .next t) :
    t.cfg = s.cfg ∧ t.dsrPrefix = false ∧ t.sp.getLsbD 0 = false ∧
      t.sp = s.sp - BitVec.ofNat 16 frame.length ∧
      ∃ v, (∀ (j : Nat) (byte : StackByte), frame[j]? = some byte → byte.admits (v j)) ∧
        WritesBytes s t 0x00#8 t.sp v order := by
  obtain ⟨u, hu, ht⟩ := andThen_eq_next.mp h
  cases ht
  rw [Pushes, hu] at hpush
  obtain ⟨-, hpushed⟩ := hpush.of_next
  obtain ⟨v, hv, hwrites⟩ := hpushed.bytes
  refine ⟨hpushed.cfg, rfl, hpushed.even, hpushed.sp, v, fun j byte hj => ?_,
    writesBytes_congr rfl rfl rfl rfl hwrites⟩
  obtain ⟨hlt, rfl⟩ := List.getElem?_eq_some_iff.mp hj
  exact hv j hlt

/-- Registers popped after registers pushed. -/
theorem popReg_of_pushReg {s t : State} {i j : Instr} {n m : RegNo} {k : Nat}
    (hi : pushRegOf i = some (n, k)) (hj : popRegOf j = some (m, k)) (hpush : exec i s = .next t)
    (hdev : ∀ q < k, isDevice s.cfg 0x00#8 (t.sp + BitVec.ofNat 16 q) = false) :
    ∃ u, exec j t = .next u ∧ u.sp = s.sp ∧
      ∀ q < k, u.r (m + BitVec.ofNat 4 q) = s.r (n + BitVec.ofNat 4 q) := by
  obtain ⟨hprefix, hsp⟩ := ready_of_exec_next (by simp [usesStack, hi]) hpush
  obtain ⟨op, frame, hexec, hlen, hframe, hop⟩ := exec_of_pushRegOf_ready hi hprefix hsp
  obtain ⟨hcfg, hprefix', hsp', hspt, v, hv, hwrites⟩ := pushed_of_next hop (hexec ▸ hpush)
  have horder : ∀ q ∈ List.range k, q ∈ pushRegOrder k := fun q hq => by
    unfold pushRegOrder
    split
    · next hk => simp_all
    · exact hq
  have hreads := readsBytes_of_written hcfg hwrites horder fun q hq => hdev q (List.mem_range.mp hq)
  obtain ⟨hk, hexec'⟩ := exec_of_popRegOf (s := t) hj
  obtain ⟨u, hnext, heq⟩ := popRegs_of_reads (n := m) (size := BitVec.ofNat 16 (stackRoom k))
    hprefix' hsp' hreads
  have hregs : u.regs = (t.setRBytes m ((List.range k).map v)).regs := by rw [heq]
  refine ⟨u, hexec'.trans hnext, ?_, fun q hq => ?_⟩
  · rw [heq, hspt, hlen]
    exact BitVec.sub_add_cancel ..
  · rw [r_congr hregs, (setRBytes_loads t m v (size := k) (by omega)).2 q hq]
    exact hv q _ (hframe q hq)

theorem codeAddrFrame_offset (s : State) (off : Word) (seg : Nibble) :
    (codeAddrFrame s off seg)[0]? = some (.exactly (loByte off)) ∧
      (codeAddrFrame s off seg)[1]? = some (.exactly (hiByte off)) := by
  unfold codeAddrFrame
  split <;> exact ⟨rfl, rfl⟩

theorem codeAddrFrame_segment {s : State} (hm : s.cfg.model = .large) (off : Word) (seg : Nibble) :
    (codeAddrFrame s off seg)[2]? = some (.lowNibble seg) := by
  rw [codeAddrFrame, if_pos hm]
  rfl

/-- The list of a handler that may be interrupted: ELR and EPSW pushed, PC and PSW popped. -/
def handlerList : StackList := ⟨false, true, true, false⟩

/-- What POP PSW,PC reads lies where PUSH ELR,EPSW wrote. -/
theorem popListOrder_handler {s t : State} (hcfg : t.cfg = s.cfg) :
    ∀ q ∈ popListOrder t handlerList, q ∈ pushListOrder s handlerList := by
  unfold popListOrder pushListOrder linkPopOrder linkPushOrder
  rw [hcfg]
  cases hm : s.cfg.model <;> simp [handlerList, StackList.pcAt, StackList.pswAt, StackList.lrAt]

/-- PUSH ELR,EPSW that goes on found a set. -/
theorem selectBank_of_pushElrEpsw {s t : State} {k : Bank} (hlevel : elevel s.psw = k.level)
    (hready : stackReady s = .next s) (h : exec .pushElrEpsw s = .next t) :
    selectBank s .backupAtLevelZero = .next k := by
  cases hhas : s.hasBank k with
  | true => exact selectBank_of_level hlevel hhas _
  | false =>
    have hstop := pushList_of_selectBank_refused (x := handlerList) hready rfl
      (selectBank_of_absent hlevel hhas _)
    cases h.symm.trans hstop

/-- Settles O39. -/
theorem popUndoesPush : Obligations.PopUndoesPush := by
  refine ⟨fun s t i j n m k hi hj hpush hdev => popReg_of_pushReg hi hj hpush hdev,
    fun s t k hlevel hpush hdev => ?_⟩
  obtain ⟨hprefix, hsp⟩ := ready_of_exec_next rfl hpush
  have hready := stackReady_of_even hprefix hsp
  have hselect := selectBank_of_pushElrEpsw hlevel hready hpush
  have hitems := pushItems_pushes (x := handlerList) (k := k) hsp fun _ => hselect
  obtain ⟨hcfg, hprefix', hsp', hspt, v, hv, hwrites⟩ := pushed_of_next hitems
    ((pushList_eq_pushItems handlerList hready).symm.trans hpush)
  have hreads := readsBytes_of_written hcfg hwrites (popListOrder_handler hcfg) fun q hq =>
    hdev q (pushListOrder_within s handlerList q (popListOrder_handler hcfg q hq))
  obtain ⟨a, hpop⟩ := popList_of_reads hprefix' hsp' hreads
  obtain ⟨hlo, hhi⟩ := codeAddrFrame_offset s (s.elr k) (s.ecsr k)
  have hlo : v 2 = loByte (s.elr k) := hv 2 _ hlo
  have hhi : v 3 = hiByte (s.elr k) := hv 3 _ hhi
  have hpsw : v 0 = s.epsw k := hv 0 (.exactly (s.epsw k)) rfl
  rw [usePop_eq] at hpop
  refine ⟨_, hpop, ?pointer, hpsw, ?offset, fun hm => ?segment⟩
  case pointer =>
    have hsize : handlerList.size t = handlerList.size s := by
      simp only [StackList.size, StackList.pcAt, StackList.pswAt, linkSize_congr hcfg]
    show t.sp + BitVec.ofNat 16 (handlerList.size t) = s.sp
    rw [hspt, length_pushFrame, hsize, BitVec.sub_add_cancel]
  case offset =>
    show evenAddr (v 3 ++ v 2) = evenAddr (s.elr k)
    rw [hhi, hlo]
    exact congrArg evenAddr (mkWord_hi_lo _)
  case segment =>
    have hseg : (v 4).extractLsb' 0 4 = s.ecsr k := hv 4 _ (codeAddrFrame_segment hm _ _)
    have hlarge : (handlerList.pc && decide (t.cfg.model = .large)) = true := by
      rw [hcfg, hm]
      rfl
    exact (if_pos hlarge).trans hseg

end Sys2Proof.Machine
end

section
/-! PROOFS. Where each instruction that accesses data memory stops (spec/20_memory.md R58 to R61).
-/

namespace Sys2Proof.Machine

/-! ## What a read finds (spec/20_memory.md R58, R60) -/

theorem dataPlace_of_inWindow {s : State} {seg : Byte} {off : Word} (h : InWindow s seg off) :
    dataPlace s.cfg seg off = .window := by
  obtain ⟨hseg, hlo, hhi⟩ := h
  simp [dataPlace, inRomWindow, hseg, hlo, hhi]

theorem inRomWindow_of_not {s : State} {seg : Byte} {off : Word} (h : ¬InWindow s seg off) :
    inRomWindow s.cfg seg off = false := by
  simpa [inRomWindow, InWindow, and_assoc] using h

/-- In the window a read gives the byte of code segment 0 at the same offset. -/
theorem readByte_window {s : State} {seg : Byte} {off : Word} (h : InWindow s seg off)
    (hcode : codePresent s.cfg off.toNat = true) :
    s.readByte seg off = .next (s.code.read off.toNat) := by
  have hflat : flatAddr 0x0#4 off = off.toNat := by simp [flatAddr]
  simp [State.readByte, dataPlace_of_inWindow h, State.codeByte, hflat, hcode]

/-- Outside it RAM and ROM give what data memory holds. -/
theorem readByte_memory {s : State} {seg : Byte} {off : Word} (h : ¬InWindow s seg off)
    (hkind : dataKind s.cfg (flatAddr seg off) = some .ram ∨
      dataKind s.cfg (flatAddr seg off) = some .rom) :
    s.readByte seg off = .next (s.data.read (flatAddr seg off)) := by
  rcases hkind with hkind | hkind <;>
    simp [State.readByte, dataPlace, inRomWindow_of_not h, hkind]

/-- Outside it a device gives its byte. -/
theorem readByte_device {s : State} {seg : Byte} {off : Word} {id : Nat} (h : ¬InWindow s seg off)
    (hkind : dataKind s.cfg (flatAddr seg off) = some (.device id)) :
    s.readByte seg off = .next (Config.deviceRead id s.deviceLog (flatAddr seg off)) := by
  simp [State.readByte, dataPlace, inRomWindow_of_not h, hkind]

/-! ## Loads, stores and the instructions on one byte -/

theorem loadRegs_stopsOr (s : State) (n : RegNo) (size : Nat) (off ea' : Word) (words : Nat) :
    StopsOr (loadRegs s n size off ea' words)
      (firstStop (readStop s s.dseg) (accessBase off size) (List.range size)) fun _ => True :=
  (readBytes_stopsOr ..).andThen_none fun _ _ => .next trivial

theorem loadCregs_stopsOr (s : State) (n : RegNo) (size : Nat) (ea' : Word) :
    StopsOr (loadCregs s n size ea')
      (firstStop (readStop s s.dseg) (accessBase s.ea size) (List.range size)) fun _ => True :=
  (readBytes_stopsOr ..).andThen_none fun _ _ => .next trivial

theorem storeBytes_stopsOr (s : State) (bs : List Byte) (off ea' : Word) (words : Nat) :
    StopsOr (storeBytes s bs off ea' words)
      (firstStop (writeStop s s.dseg) (accessBase off bs.length) (List.range bs.length))
      fun _ => True :=
  (writeBytes_stopsOr ..).andThen_none fun _ _ => .next trivial

/-- One byte read and written back stops at its read, or else at its write. -/
theorem modifyByte_stopsOr (s : State) (off : Word) (f psw' : Byte → Byte) (words : Nat) :
    StopsOr (modifyByte s off f psw' words)
      ((readStop s s.dseg off).or (writeStop s s.dseg off)) fun _ => True :=
  (readByte_stopsOr ..).andThen fun v _ =>
    (writeByte_stopsOr (s.afterRead s.dseg off) s.dseg off (f v)).andThen_none
      fun _ _ => .next trivial

theorem execTbDbitadr_stopsOr (s : State) (bit : BitVec 3) (dadr : Word) :
    StopsOr (execTbDbitadr bit dadr s) (readStop s s.dseg dadr) fun _ => True :=
  (readByte_stopsOr ..).andThen_none fun _ _ => .next trivial

/-! ## The stack -/

theorem popRegs_stopsOr {s : State} (hprefix : s.dsrPrefix = false) (hsp : s.sp.getLsbD 0 = false)
    (n : RegNo) (k : Nat) (size : Word) :
    StopsOr (popRegs n k size s) (firstStop (readStop s 0x00#8) s.sp (List.range k))
      fun _ => True := by
  simp only [popRegs, stackReady_of_even hprefix hsp, State.memRead, accessBase_of_even hsp,
    andThen_next]
  exact (readBytes_stopsOr ..).andThen_none fun _ _ => .next trivial

/-- `op` pops `n` bytes, reading these of them in this order, or stops at the first that cannot be
read. -/
def Pops (op : State → Res State) (s : State) (n : Nat) (order : List Nat) : Prop :=
  StopsOr (op s) (firstStop (readStop s 0x00#8) s.sp order)
    fun t => t.cfg = s.cfg ∧ t.sp = s.sp + BitVec.ofNat 16 n

/-- One pop after another. -/
theorem Pops.andThen {op op' : State → Res State} {s : State} {m n : Nat} {o p : List Nat}
    (hfst : Pops op s m o)
    (hsnd : ∀ u, u.cfg = s.cfg → u.sp = s.sp + BitVec.ofNat 16 m → Pops op' u n p) :
    Pops (fun s => Machine.andThen (op s) op') s (m + n) (o ++ p.map (m + ·)) := by
  rw [Pops, firstStop_append, firstStop_shift]
  refine StopsOr.andThen hfst fun u hu => ?_
  obtain ⟨hcfg, hsp⟩ := hu
  have h := hsnd u hcfg hsp
  rw [Pops, readStop_congr hcfg, hsp] at h
  refine h.imp_next fun t _ ht => ?_
  obtain ⟨hcfg', hsp'⟩ := ht
  exact ⟨hcfg'.trans hcfg, hsp'.trans (add_ofNat_add ..)⟩

theorem Pops.whenListed {op : State → Res State} {s : State} {n : Nat} {o : List Nat}
    {listed : Bool} (h : Pops op s n o) :
    Pops (Machine.whenListed listed op) s (if listed then n else 0)
      (if listed then o else []) := by
  cases listed with
  | true => exact h
  | false => exact .next ⟨rfl, (BitVec.add_zero _).symm⟩

/-- Reading from SP upward moves nothing. -/
theorem memRead_stopsOr {s : State} (hsp : s.sp.getLsbD 0 = false) (n : Nat) :
    StopsOr (s.memRead 0x00#8 s.sp n) (firstStop (readStop s 0x00#8) s.sp (List.range n))
      fun r => r.2.cfg = s.cfg ∧ r.2.sp = s.sp := by
  rw [State.memRead, accessBase_of_even hsp]
  refine (readBytes_stopsOr ..).imp_next fun r hr _ => ?_
  obtain ⟨-, -, hu⟩ := readBytes_eq_next.mp hr
  rw [hu]
  exact ⟨rfl, rfl⟩

theorem popEaItem_pops {s : State} (hsp : s.sp.getLsbD 0 = false) : Pops popEaItem s 2 [0, 1] := by
  refine StopsOr.andThen_none (memRead_stopsOr hsp 2) fun r hr => .next ?_
  obtain ⟨hcfg, hspr⟩ := hr
  exact ⟨hcfg, congrArg (· + 2#16) hspr⟩

theorem popPswItem_pops (s : State) : Pops popPswItem s 2 [0] := by
  rw [Pops, firstStop_cons, BitVec.add_zero]
  exact StopsOr.andThen (readByte_stopsOr ..) fun _ _ => .next ⟨rfl, rfl⟩

/-- A code address is popped whatever is made of it. -/
theorem popCodeAddr_pops {s : State} (hsp : s.sp.getLsbD 0 = false)
    {use : State → Word → Nibble → State}
    (huse : ∀ t off seg, (use t off seg).cfg = t.cfg ∧ (use t off seg).sp = t.sp) :
    Pops (popCodeAddr · use) s (linkSize s) (linkPopOrder s) := by
  have hoffset := memRead_stopsOr hsp 2
  cases hm : s.cfg.model with
  | small =>
    have horder : linkPopOrder s = [0, 1] := by simp [linkPopOrder, hm]
    have hsize : linkSize s = 2 := by simp [linkSize, hm]
    rw [horder, hsize]
    refine StopsOr.andThen_none hoffset fun r hr => ?_
    obtain ⟨hcfg, hspr⟩ := hr
    obtain ⟨hcfg', hsp'⟩ := huse (r.2.popped 2#16) (leWord r.1) 0x0#4
    simp only [State.isLarge, hm, reduceCtorEq, beq_iff_eq, if_false]
    exact .next ⟨hcfg'.trans hcfg, hsp'.trans (congrArg (· + 2#16) hspr)⟩
  | large =>
    have horder : linkPopOrder s = [0, 1] ++ [2] := by simp [linkPopOrder, hm]
    have hsize : linkSize s = 4 := by simp [linkSize, hm]
    rw [horder, hsize, Pops, firstStop_append]
    refine StopsOr.andThen hoffset fun r hr => ?_
    obtain ⟨hcfg, hspr⟩ := hr
    simp only [State.isLarge, hm, beq_self_eq_true, if_true, firstStop_cons, ← readStop_congr hcfg]
    refine (readByte_stopsOr ..).andThen fun b _ => .next ?_
    obtain ⟨hcfg', hsp'⟩ := huse ((r.2.afterRead 0x00#8 (s.sp + 2#16)).popped 4#16) (leWord r.1)
      (loNibble b)
    exact ⟨hcfg'.trans hcfg, hsp'.trans (congrArg (· + 4#16) hspr)⟩

/-- The last item of a POP, or the end without it. -/
theorem popEnd_pops {s : State} {pc : Bool} (hsp : s.sp.getLsbD 0 = false) :
    Pops (fun u => if pc then popPcItem u else .next (u.advance 1)) s
      (if pc then linkSize s else 0) (if pc then linkPopOrder s else []) := by
  cases pc with
  | true =>
    simp only [if_true]
    exact popCodeAddr_pops (use := fun t off seg => (t.setCodeSeg seg).jump off) hsp
      fun _ _ _ => ⟨rfl, rfl⟩
  | false =>
    simp only [Bool.false_eq_true, if_false]
    exact StopsOr.next ⟨rfl, (BitVec.add_zero s.sp).symm⟩

/-- Every POP list stops at the first byte it cannot read. -/
theorem popList_stopsOr {s : State} {x : StackList} (hprefix : s.dsrPrefix = false)
    (hsp : s.sp.getLsbD 0 = false) :
    StopsOr (popList x.lr x.psw x.pc x.ea s)
      (firstStop (readStop s 0x00#8) s.sp (popListOrder s x)) fun _ => True := by
  have hea := Pops.whenListed (listed := x.ea) (popEaItem_pops hsp)
  have hlr := hea.andThen (op' := whenListed x.lr popLrItem) (n := if x.lr then linkSize s else 0)
    (p := if x.lr then linkPopOrder s else []) fun u hcfg hspu => by
      rw [← linkSize_congr hcfg, ← linkPopOrder_congr hcfg]
      exact .whenListed (popCodeAddr_pops (hspu ▸ even_add hsp (lrAt_even x))
        fun _ _ _ => ⟨rfl, rfl⟩)
  have hpsw := hlr.andThen (op' := whenListed x.psw popPswItem) fun u _ _ =>
    .whenListed (listed := x.psw) (popPswItem_pops u)
  have hpc := hpsw.andThen (op' := fun u => if x.pc then popPcItem u else .next (u.advance 1))
    (n := if x.pc then linkSize s else 0) (p := if x.pc then linkPopOrder s else [])
    fun u hcfg hspu => by
      rw [← linkSize_congr hcfg, ← linkPopOrder_congr hcfg]
      exact popEnd_pops (hspu ▸ even_add hsp (pcAt_even x s))
  rw [popList, stackReady_of_even hprefix hsp, andThen_next, popListOrder_eq]
  simp only [Pops, andThen_assoc] at hpc
  simp only [List.nil_append, Nat.zero_add, List.map_id']
  exact hpc.imp_next fun _ _ _ => trivial

/-- Every PUSH list, with the set it needs, stops at the first byte it cannot write. -/
theorem pushList_stopsOr {s : State} {x : StackList} {k : Bank} (hprefix : s.dsrPrefix = false)
    (hsp : s.sp.getLsbD 0 = false)
    (hk : (x.psw || x.pc) = true → selectBank s .backupAtLevelZero = .next k) :
    StopsOr (pushList x.lr x.psw x.pc x.ea s)
      (firstStop (writeStop s 0x00#8) (s.sp - BitVec.ofNat 16 (x.size s)) (pushListOrder s x))
      fun _ => True := by
  rw [pushList_eq_pushItems x (stackReady_of_even hprefix hsp), ← length_pushFrame s x k]
  exact StopsOr.andThen_none (pushItems_pushes hsp hk) fun _ _ => .next trivial

/-- Settles O28: the whole instruction stops where its accesses do, in the order it makes them. -/
theorem byteAccessesStopWhereTheMapSays : Obligations.ByteAccessesStopWhereTheMapSays := by
  constructor
  · intro s seg off addr
    exact ⟨readByte_window, readByte_memory, fun h id => readByte_device h⟩
  intro s i seg
  refine ⟨?loads, ?stores, ?modify, ?test, ?count, fun hprefix hsp =>
    ⟨?pushRegs, ?pushLists, ?popRegs, ?popLists⟩⟩
  case loads =>
    rintro x (hx | hx)
    · obtain ⟨-, hexec⟩ := exec_of_loadAccess hx
      exact (hexec ▸ loadRegs_stopsOr ..).stopsOrGoesOn
    · obtain ⟨-, haddr, -, hexec⟩ := exec_of_coLoadAccess hx
      rw [haddr]
      exact (hexec ▸ loadCregs_stopsOr ..).stopsOrGoesOn
  case stores =>
    rintro x (hx | hx)
    · obtain ⟨-, hexec⟩ := exec_of_storeAccess hx
      have h := storeBytes_stopsOr s (s.rBytes x.reg x.size) x.addr x.eaAfter x.words
      rw [rBytes_length, ← hexec] at h
      exact h.stopsOrGoesOn
    · obtain ⟨-, hexec⟩ := exec_of_coStoreAccess hx
      have h := storeBytes_stopsOr s (s.crBytes x.reg x.size) x.addr x.eaAfter x.words
      rw [crBytes_length, ← hexec] at h
      exact h.stopsOrGoesOn
  case modify =>
    rintro bit dadr (rfl | rfl)
    · exact (modifyByte_stopsOr s dadr _ _ 2).stopsOrGoesOn (i := .sbDbitadr bit dadr)
    · exact (modifyByte_stopsOr s dadr _ _ 2).stopsOrGoesOn (i := .rbDbitadr bit dadr)
  case test =>
    rintro bit dadr rfl
    exact (execTbDbitadr_stopsOr s bit dadr).stopsOrGoesOn (i := .tbDbitadr bit dadr)
  case count =>
    rintro (rfl | rfl)
    · exact (modifyByte_stopsOr s s.ea _ _ 1).stopsOrGoesOn (i := .incEa)
    · exact (modifyByte_stopsOr s s.ea _ _ 1).stopsOrGoesOn (i := .decEa)
  case pushRegs =>
    intro n k hi
    obtain ⟨op, frame, hexec, hlen, -, hpush⟩ := exec_of_pushRegOf_ready hi hprefix hsp
    rw [← hlen]
    refine StopsOr.stopsOrGoesOn (P := fun _ => True) ?_
    rw [hexec]
    exact StopsOr.andThen_none hpush fun _ _ => .next trivial
  case pushLists =>
    intro x k hi hk
    exact (exec_of_pushListOf hi ▸
      pushList_stopsOr hprefix hsp (selectBank_of_listed hk)).stopsOrGoesOn
  case popRegs =>
    intro n k hi
    obtain ⟨-, hexec⟩ := exec_of_popRegOf hi
    exact (hexec ▸ popRegs_stopsOr hprefix hsp n k _).stopsOrGoesOn
  case popLists =>
    intro x hi
    exact (exec_of_popListOf hi ▸ popList_stopsOr hprefix hsp).stopsOrGoesOn

end Sys2Proof.Machine
end
